-- ==== Sys2Proof/Word.lean ====
section
/-! DEFINITION. The widths of 00_scope.md R14, and the 8-byte identifier of R10. -/

namespace Sys2Proof

/-- `u8` (R14). The unit of every rule is the whole byte (R43). -/
abbrev Byte := BitVec 8

/-- `u16` (R14). -/
abbrev U16 := BitVec 16

/-- `u32` (R14). -/
abbrev U32 := BitVec 32

/-- An IEEE-754 binary32 bit pattern, held as a `u32` (R14, R70). -/
abbrev F32 := BitVec 32

/-- A byte string (R14). -/
abbrev Bytes := List Byte

/-- A field of exactly 8 bytes: `id8` (R62), `DEVICE_ID` (R10). Byte 0 comes first on the wire. -/
structure Id8 where
  b0 : Byte
  b1 : Byte
  b2 : Byte
  b3 : Byte
  b4 : Byte
  b5 : Byte
  b6 : Byte
  b7 : Byte
  deriving DecidableEq, Repr, Inhabited

end Sys2Proof
end

