-- ==== Sys2Proof/Config.lean ====
section
/-! DEFINITION. What an implementation fixes: the installed interface, the parameters of
00_scope.md R8 to R13, the form of the UART and I2C command tables (R12, R151), the calls of the
hardware port (60_exceptions.md R187, R188), and the free values (10_state.md R31, R35). -/

namespace Sys2Proof

/-- The one peripheral interface a build installs (R11). -/
inductive Itf where
  | gpio
  | pwm
  | uart
  | i2c
  deriving DecidableEq, Repr, Inhabited

/-- The keys of `REASON` with their texts (R13). -/
structure Reasons where
  tooShort : Bytes
  invalidArgs : Bytes
  badFrequency : Bytes
  hwFailure : Bytes
  hwValueRange : Bytes
  deriving DecidableEq, Repr

/-- The field types of a payload layout (R62), with the ArgParser's other widths (R102, R104).
`id8` is `vec 8`. -/
inductive FieldTy where
  | u8
  | u16
  | u32
  | f32
  | vec (n : Nat)
  | text
  deriving DecidableEq, Repr

/-- The value of one payload field. -/
inductive FieldVal where
  | u8 (v : Byte)
  | u16 (v : U16)
  | u32 (v : U32)
  | f32 (v : F32)
  | bytes (v : Bytes)
  deriving DecidableEq, Repr

/-- The names of the texts of `REASON` (R13). -/
inductive ReasonKey where
  | tooShort
  | invalidArgs
  | badFrequency
  | hwFailure
  | hwValueRange
  deriving DecidableEq, Repr

/-- The text of a key (R13). -/
def Reasons.text (r : Reasons) : ReasonKey → Bytes
  | .tooShort => r.tooShort
  | .invalidArgs => r.invalidArgs
  | .badFrequency => r.badFrequency
  | .hwFailure => r.hwFailure
  | .hwValueRange => r.hwValueRange

/-- The type of the value `v` of a port answer `Ok(v)` (R187, R188). A byte string is for operations
of a UART or I2C table (DESIGN CHOICE, log entry 4). -/
inductive ResTy where
  | none
  | bool
  | u8
  | u16
  | u32
  | f32
  | bytes (max : Nat)
  deriving DecidableEq, Repr

/-! ## Handlers of the UART and I2C tables

"built from the same primitives as the GPIO and PWM sets" (R12): port calls, value checks and refusals,
exact arithmetic, the f32 functions, the period formula and the quantizer with its report. The form is a
DESIGN CHOICE (log entry 4). A handler works on a list of values: the fields of its request, then one
value for each term it computes and each call it makes, and the eight of the record `Q` (R159) for each
quantizer run; `a`, `b`, … are places in that list. -/

/-- A value a handler computes with: an exact number (a `u8`, `u16`, `u32`, an `f32` pattern or a
rational), a truth value or a byte string (R14). -/
inductive Val where
  | num (q : Rat)
  | bool (b : Bool)
  | bytes (v : Bytes)
  deriving DecidableEq, Repr, Inhabited

/-- Operations on natural numbers (R15, R18). -/
inductive NatOp where
  | add
  | sub
  | mul
  | div
  | mod
  | and
  | or
  | xor
  | shl
  | shr
  deriving DecidableEq, Repr

/-- Operations on exact rationals (R18). -/
inductive RatOp where
  | add
  | sub
  | mul
  | div
  deriving DecidableEq, Repr

/-- Comparisons, exact; `eq` also of byte strings. -/
inductive CmpOp where
  | eq
  | lt
  | le
  deriving DecidableEq, Repr

/-- One value computed from earlier ones. -/
inductive Term where
  /-- A constant. -/
  | const (v : Val)
  | natOp (o : NatOp) (a b : Nat)
  | ratOp (o : RatOp) (a b : Nat)
  /-- `floor`, `clamp` and `|q|` (R18). -/
  | floor (a : Nat)
  | clamp (a lo hi : Nat)
  | abs (a : Nat)
  | compare (o : CmpOp) (a b : Nat)
  | not (a : Nat)
  | and (a b : Nat)
  | or (a b : Nat)
  /-- Whether an `f32` pattern is neither NaN nor infinite, its value, and `rne32` (R19). -/
  | f32Finite (a : Nat)
  | f32Value (a : Nat)
  | f32Round (a : Nat)
  /-- `pwm_period` and `pwm_frequency` (R158). -/
  | pwmPeriod (top pc di df : Nat)
  | pwmFrequency (top pc di df : Nat)
  /-- Byte strings (R14), `be16` and `be32` (R16), `crc16` (R91). -/
  | length (a : Nat)
  | byteAt (a i : Nat)
  | slice (a i n : Nat)
  | append (a b : Nat)
  | be16 (a : Nat)
  | be32 (a : Nat)
  | crc16 (a : Nat)
  deriving DecidableEq, Repr

/-- The one response a handler ends with (R137, R151): `Good`, a value response with its layout, or a
refusal with a text of `REASON`. -/
inductive Reply where
  | good
  | value (opcode : U16) (fields : List (FieldTy × Nat))
  | errGeneric (key : ReasonKey)
  | errInvalidArgs (key : ReasonKey)
  deriving DecidableEq, Repr

/-- A handler of a table (R12, R151). -/
inductive Handler where
  | reply (r : Reply)
  /-- Compute a value and go on. -/
  | bind (t : Term) (rest : Handler)
  /-- Call operation number `op` of the interface; `Err` ends the handler with HW_FAIL (R137). The
  argument types are those of payload fields, none of them bool: a bool argument, which the PWM port's
  `set_phase_correct` takes as such (60_exceptions.md R188), is passed as a number field of 0 or 1, such
  as a `u8` (DESIGN CHOICE, log entry 4). -/
  | call (op : Nat) (args : List (FieldTy × Nat)) (res : ResTy) (rest : Handler)
  /-- Go on with `yes` if the truth value at `cond` holds, else with `no`. -/
  | branch (cond : Nat) (yes no : Handler)
  /-- Run the quantizer for the `f32` target at `target` and report it, or refuse the target (R149);
  the record `Q` follows the values in the order of R159. -/
  | quantize (target : Nat) (rest : Handler)
  deriving DecidableEq, Repr

/-- One request of `UART_CMDS` or `I2C_CMDS`: opcode, payload layout and handler (R12, R151). -/
structure RequestEntry where
  opcode : U16
  layout : List FieldTy
  handler : Handler
  deriving DecidableEq, Repr

/-- One response of `UART_CMDS` or `I2C_CMDS`: opcode and payload layout (R12). -/
structure ResponseEntry where
  opcode : U16
  layout : List FieldTy
  deriving DecidableEq, Repr

/-- A command table (R12). -/
structure CmdTable where
  requests : List RequestEntry
  responses : List ResponseEntry
  deriving DecidableEq, Repr

/-- The inputs of the CFG interface (10_state.md R22, R33), without the drawn `DEVICE_ID`. -/
structure CfgParams where
  itf : Itf
  itfTag : Byte
  version : Bytes
  fsys : Nat
  reason : Reasons
  uartCmds : CmdTable
  i2cCmds : CmdTable
  deriving DecidableEq, Repr

/-- The configuration registers `CFG` (10_state.md R22). -/
structure Cfg extends CfgParams where
  deviceId : Id8
  deriving DecidableEq, Repr

/-- A call on the PORT channel: an operation of R187 or R188 with its arguments, or operation
number `op` of a UART or I2C table (R151), whose arguments are field values, a bool among them a 0 or 1
(DESIGN CHOICE, log entry 4). -/
inductive PortCall where
  | dirSet (pin dir : Byte)
  | dirGet (pin : Byte)
  | pinWrite (pin value : Byte)
  | pinRead (pin : Byte)
  | enable (channel : Byte)
  | disable (channel : Byte)
  | setDuty (channel : Byte) (value : F32)
  | getDuty (channel : Byte)
  | setTop (channel : Byte) (top : U16)
  | setDivInt (channel : Byte) (divInt : Byte)
  | setDivFrac (channel : Byte) (divFrac : Byte)
  | setPhaseCorrect (channel : Byte) (pc : Bool)
  | getTop (channel : Byte)
  | getDivInt (channel : Byte)
  | getDivFrac (channel : Byte)
  | getPhaseCorrect (channel : Byte)
  | table (itf : Itf) (op : Nat) (args : List FieldVal) (res : ResTy)
  deriving DecidableEq, Repr

/-- The value `v` of an `Ok(v)`: a number in 32 bits (a narrower one is zero-extended, no value is 0),
and a byte string, empty for every operation of R187 and R188. -/
structure PortVal where
  num : U32
  data : Bytes
  deriving DecidableEq, Repr, Inhabited

/-- A port's answer (R31): `Err`, or `Ok(v)`. -/
inductive PortAnswer where
  | err
  | ok (v : PortVal)
  deriving DecidableEq, Repr, Inhabited

/-- An `Ok` with a number. -/
def PortAnswer.okNum (n : U32) : PortAnswer := .ok ⟨n, []⟩

namespace Config

/-! ## Capacities (R8; constants: DESIGN CHOICE, log entry 13, unsafe for other capacities) -/

/-- `DEC_CAP` (R8). -/
def decCap : Nat := 64

/-- `PAYLOAD_CAP` (R8). -/
def payloadCap : Nat := 64

/-- `ENC_CAP` (R8). -/
def encCap : Nat := 137

/-- `MAX_WIRE_PAYLOAD` (R8). -/
def maxWirePayload : Nat := decCap - 4

/-! ## Frequency Quantizer parameters (R9) -/

/-- `F_LOW` (R9). -/
def fLow : Rat := 1000

/-- `F_PC` (R9). -/
def fPc : Rat := 62500000

/-- `TOL` (R9). -/
def tol : Rat := 1 / 10

/-- `ITER_MAX` (R9). -/
def iterMax : Nat := 20

/-- `TOP_MAX` (R9). -/
def topMax : Int := 65535

/-- `DI_WIDE` (R9). -/
def diWide : Nat := 255

/-- `S_MAX` (R9). -/
def sMax : Int := 255

/-! ## Build parameters (R9 to R13) -/

/-- The default `ITF_TAG`: the high byte of the interface's request namespace (R11). -/
def defaultTag : Itf → Byte
  | .gpio => 0x01
  | .pwm => 0x02
  | .uart => 0x10
  | .i2c => 0x3B

/-- The default texts of R13, in ASCII. -/
def defaultReasons : Reasons where
  tooShort := [0x66, 0x72, 0x61, 0x6D, 0x65, 0x20, 0x74, 0x6F, 0x6F, 0x20, 0x73, 0x68, 0x6F, 0x72,
    0x74]
  invalidArgs := [0x69, 0x6E, 0x76, 0x61, 0x6C, 0x69, 0x64, 0x20, 0x61, 0x72, 0x67, 0x75, 0x6D,
    0x65, 0x6E, 0x74, 0x73]
  badFrequency := [0x69, 0x6E, 0x76, 0x61, 0x6C, 0x69, 0x64, 0x20, 0x66, 0x72, 0x65, 0x71, 0x75,
    0x65, 0x6E, 0x63, 0x79]
  hwFailure := [0x68, 0x61, 0x72, 0x64, 0x77, 0x61, 0x72, 0x65, 0x20, 0x65, 0x72, 0x72, 0x6F, 0x72]
  hwValueRange := [0x68, 0x61, 0x72, 0x64, 0x77, 0x61, 0x72, 0x65, 0x20, 0x76, 0x61, 0x6C, 0x75,
    0x65, 0x20, 0x6F, 0x75, 0x74, 0x20, 0x6F, 0x66, 0x20, 0x72, 0x61, 0x6E, 0x67, 0x65]

/-- The empty command table, the default of `UART_CMDS` and `I2C_CMDS` (R12). -/
def emptyTable : CmdTable := ⟨[], []⟩

/-- The parameters of a build that installs `itf`, each at the default of R9 to R13. `VERSION` has
no default there: DESIGN CHOICE "0.1.0" (log entry 2, unsafe). That a reset takes the defaults of the
others is a DESIGN CHOICE too (log entry 11, unsafe). -/
def paramsFor (itf : Itf) : CfgParams where
  itf := itf
  itfTag := defaultTag itf
  version := [0x30, 0x2E, 0x31, 0x2E, 0x30]
  fsys := 125000000
  reason := defaultReasons
  uartCmds := emptyTable
  i2cCmds := emptyTable

/-- The CFG inputs at power-on. `ITF` has no default: DESIGN CHOICE GPIO (log entry 1, unsafe). -/
def params : CfgParams := paramsFor .gpio

/-! ## Free values -/

/-- The `DEVICE_ID` drawn at reset number `n` (R35): any 8 bytes (log entry 3, safe). -/
opaque deviceIdDraw : Nat → Id8

/-- The answer of the port to its call number `n` when the tape of answers is empty (R31, R186):
any answer (log entry 6, safe). -/
opaque portDraw : Nat → PortCall → PortAnswer

/-! What a table's handler reads where nothing gives it a value: a place past its values, a natural
number, number, truth value or byte string where the value is none, an operation outside its domain. Any
value (log entry 4, safe). -/

opaque freeVal : Nat → List Val → Val
opaque freeNat : Val → Nat
opaque freeRat : Val → Rat
opaque freeBool : Val → Bool
opaque freeBytes : Val → Bytes

end Config

end Sys2Proof
end

