-- ==== Sys2Proof/Machine/Bytes.lean ====
section
/-! DEFINITION. The big-endian helpers of 00_scope.md R16. -/

namespace Sys2Proof

/-- `be16` (R16). -/
def be16 (v : U16) : Bytes := [v.extractLsb' 8 8, v.extractLsb' 0 8]

/-- `be32` (R16). -/
def be32 (v : U32) : Bytes :=
  [v.extractLsb' 24 8, v.extractLsb' 16 8, v.extractLsb' 8 8, v.extractLsb' 0 8]

/-- `u16_of` (R16). -/
def u16Of (b0 b1 : Byte) : U16 := BitVec.ofNat 16 (b0.toNat * 256 + b1.toNat)

/-- `u32_of` (R16). -/
def u32Of (b0 b1 b2 b3 : Byte) : U32 :=
  BitVec.ofNat 32 (((b0.toNat * 256 + b1.toNat) * 256 + b2.toNat) * 256 + b3.toNat)

/-- The high byte of an opcode, `op[15:8]` (R61). -/
def highByte (op : U16) : Byte := op.extractLsb' 8 8

/-- The 8 bytes of an `id8` field in order (R62). -/
def Id8.toBytes (i : Id8) : Bytes := [i.b0, i.b1, i.b2, i.b3, i.b4, i.b5, i.b6, i.b7]

/-- An `id8` field from its bytes; `none` unless there are exactly 8. -/
def Id8.ofBytes : Bytes → Option Id8
  | [b0, b1, b2, b3, b4, b5, b6, b7] => some ⟨b0, b1, b2, b3, b4, b5, b6, b7⟩
  | _ => none

end Sys2Proof
end

