-- ==== Sys2Proof/Machine/Crc.lean ====
section
/-! DEFINITION. CRC-16/CCITT-FALSE, bit-serial (41_frame_protocol.md R91). -/

namespace Sys2Proof

/-- One of the 8 bit rounds of R91. -/
def crcBit (c : U16) : U16 := if c.getLsbD 15 then (c <<< 1) ^^^ 0x1021#16 else c <<< 1

/-- `n` bit rounds (R91 repeats 8). -/
def crcBits : Nat → U16 → U16
  | 0, c => c
  | n + 1, c => crcBits n (crcBit c)

/-- The register after one more data byte (R91). -/
def crcByte (c : U16) (b : Byte) : U16 := crcBits 8 (c ^^^ (b.setWidth 16 <<< 8))

/-- The register after a byte string, from register value `c` (R91). -/
def crcFrom (c : U16) : Bytes → U16
  | [] => c
  | b :: rest => crcFrom (crcByte c b) rest

/-- `crc16` (R91): initial register 0xFFFF, no reflection, no final XOR. -/
def crc16 (data : Bytes) : U16 := crcFrom 0xFFFF#16 data

end Sys2Proof
end

