-- ==== Sys2Proof/Machine/Operands.lean ====
section
/-! DEFINITION. The operand forms: the ArgParser of 41_frame_protocol.md R99 to R105, and the payload
layouts of 30_encoding.md R62 read and written with it. -/

namespace Sys2Proof

/-- A cursor over a payload (R99). -/
structure ArgParser where
  buf : Bytes
  pos : Nat
  deriving DecidableEq, Repr

/-- `ArgParser.new` (R99). -/
def ArgParser.new (buf : Bytes) : ArgParser := ⟨buf, 0⟩

/-- `BufRead(buf, i, n)`: `buf[i..i+n)` (R17). -/
def bufRead (buf : Bytes) (i n : Nat) : Bytes := (buf.drop i).take n

/-- `consume_vector(n)` (R104). A failing consume answers `none`: the caller's cursor stays as it
was (R99). -/
def ArgParser.consumeVector (p : ArgParser) (n : Nat) : Option (Bytes × ArgParser) :=
  if p.pos + n > p.buf.length then none
  else some (bufRead p.buf p.pos n, { p with pos := p.pos + n })

/-- `consume_u8` (R100). -/
def ArgParser.consumeU8 (p : ArgParser) : Option (Byte × ArgParser) :=
  match p.consumeVector 1 with
  | some ([b], p') => some (b, p')
  | _ => none

/-- `consume_u16`, big-endian (R101). -/
def ArgParser.consumeU16 (p : ArgParser) : Option (U16 × ArgParser) :=
  match p.consumeVector 2 with
  | some ([b0, b1], p') => some (u16Of b0 b1, p')
  | _ => none

/-- `consume_u32`, big-endian (R102). -/
def ArgParser.consumeU32 (p : ArgParser) : Option (U32 × ArgParser) :=
  match p.consumeVector 4 with
  | some ([b0, b1, b2, b3], p') => some (u32Of b0 b1 b2 b3, p')
  | _ => none

/-- `consume_f32` (R103): the bit pattern as it is (R70). -/
def ArgParser.consumeF32 (p : ArgParser) : Option (F32 × ArgParser) := p.consumeU32

/-- `consume_rest` (R105): it never fails. -/
def ArgParser.consumeRest (p : ArgParser) : Bytes × ArgParser :=
  (p.buf.drop p.pos, { p with pos := p.buf.length })

/-- An `id8` field: `consume_vector(8)` (R62, R128). -/
def ArgParser.consumeId8 (p : ArgParser) : Option (Id8 × ArgParser) :=
  match p.consumeVector 8 with
  | some (bs, p') => (Id8.ofBytes bs).map (·, p')
  | none => none

/-- One field of a layout (R62). -/
def ArgParser.consumeField (p : ArgParser) : FieldTy → Option (FieldVal × ArgParser)
  | .u8 => p.consumeU8.map fun r => (.u8 r.1, r.2)
  | .u16 => p.consumeU16.map fun r => (.u16 r.1, r.2)
  | .u32 => p.consumeU32.map fun r => (.u32 r.1, r.2)
  | .f32 => p.consumeF32.map fun r => (.f32 r.1, r.2)
  | .vec n => (p.consumeVector n).map fun r => (.bytes r.1, r.2)
  | .text => some (.bytes p.consumeRest.1, p.consumeRest.2)

/-- A whole layout, field by field; `none` if any consume fails (R107). Bytes left over are ignored
(R71). -/
def ArgParser.consumeLayout (p : ArgParser) : List FieldTy → Option (List FieldVal)
  | [] => some []
  | t :: ts =>
    match p.consumeField t with
    | none => none
    | some (v, p') => (p'.consumeLayout ts).map (v :: ·)

/-- The bytes of one field (R62, R70). -/
def FieldVal.toBytes : FieldVal → Bytes
  | .u8 v => [v]
  | .u16 v => be16 v
  | .u32 v => be32 v
  | .f32 v => be32 v
  | .bytes v => v

/-- Whether a field value has a field type. -/
def FieldVal.hasTy : FieldVal → FieldTy → Bool
  | .u8 _, .u8 => true
  | .u16 _, .u16 => true
  | .u32 _, .u32 => true
  | .f32 _, .f32 => true
  | .bytes v, .vec n => v.length == n
  | .bytes _, .text => true
  | _, _ => false

/-- The most bytes a field of this type can take; a `text` can take a whole payload. -/
def FieldTy.maxBytes : FieldTy → Nat
  | .u8 => 1
  | .u16 => 2
  | .u32 => 4
  | .f32 => 4
  | .vec n => n
  | .text => Config.maxWirePayload

end Sys2Proof
end

