-- ==== Sys2Proof/Syntax.lean ====
section
/-! DEFINITION. The messages of the block (30_encoding.md R63 to R68): one constructor per row of
spec/opcode_table.json. A message received is the instruction the block runs; a message sent is a
response. -/

namespace Sys2Proof

/-- A message: its opcode is the constructor, its arguments are its payload fields in layout order
(R63 to R68). A `text` field is a byte string (R62). -/
inductive Instr where
  | ping
  | itfType
  | version
  | idGet
  | gpioDirSet (pin dir : Byte)
  | gpioDirGet (pin : Byte)
  | gpioWrite (pin value : Byte)
  | gpioRead (pin : Byte)
  | pwmSetDutyCycle (channel : Byte) (value : F32)
  | pwmGetDutyCycle (channel : Byte)
  | pwmSetFrequency (channel : Byte) (value : F32)
  | pwmGetFrequency (channel : Byte)
  | good
  | errGeneric (reason : Bytes)
  | errCRC
  | errUnknownCode
  | errInvalidArgs (reason : Bytes)
  | errBusy
  | respVersion (version : Bytes)
  | respItfType (tag : Byte)
  | respId (id : Id8)
  | respGpioDir (pin dir : Byte)
  | respGpioValue (pin value : Byte)
  | respPwmDuty (channel : Byte) (value : F32)
  | respPwmFreq (channel : Byte) (value : F32)
  deriving DecidableEq, Repr

/-- The rows of the opcode table, without their fields. -/
inductive Op where
  | ping
  | itfType
  | version
  | idGet
  | gpioDirSet
  | gpioDirGet
  | gpioWrite
  | gpioRead
  | pwmSetDutyCycle
  | pwmGetDutyCycle
  | pwmSetFrequency
  | pwmGetFrequency
  | good
  | errGeneric
  | errCRC
  | errUnknownCode
  | errInvalidArgs
  | errBusy
  | respVersion
  | respItfType
  | respId
  | respGpioDir
  | respGpioValue
  | respPwmDuty
  | respPwmFreq
  deriving DecidableEq, Repr

end Sys2Proof
end

