-- ==== Sys2Proof/WellFormed.lean ====
section
/-! DEFINITION. When a message may be encoded: a `text` field holds 0 to 60 bytes (R121, R124, R126)
and is UTF-8 (R62). Every other field is well-formed by its type. -/

namespace Sys2Proof

/-- What the validator expects of the next byte: the start of a character (`cont = 0`), or one of
`cont` continuation bytes, the next of them in `lo .. hi`. -/
structure Utf8State where
  cont : Nat
  lo : Nat
  hi : Nat
  deriving DecidableEq, Repr

/-- The validator between two characters. -/
def Utf8State.start : Utf8State := ⟨0, 0x80, 0xBF⟩

/-- The validator after one more byte, or `none` where the byte is not allowed (PRESUMED, log
entry 9: the well-formed byte sequences of the Unicode standard). -/
def utf8Next (st : Utf8State) (b : Byte) : Option Utf8State :=
  let v := b.toNat
  if st.cont = 0 then
    if v < 0x80 then some .start
    else if 0xC2 ≤ v ∧ v ≤ 0xDF then some ⟨1, 0x80, 0xBF⟩
    else if v = 0xE0 then some ⟨2, 0xA0, 0xBF⟩
    else if v = 0xED then some ⟨2, 0x80, 0x9F⟩
    else if 0xE1 ≤ v ∧ v ≤ 0xEF then some ⟨2, 0x80, 0xBF⟩
    else if v = 0xF0 then some ⟨3, 0x90, 0xBF⟩
    else if 0xF1 ≤ v ∧ v ≤ 0xF3 then some ⟨3, 0x80, 0xBF⟩
    else if v = 0xF4 then some ⟨3, 0x80, 0x8F⟩
    else none
  else if st.lo ≤ v ∧ v ≤ st.hi then some ⟨st.cont - 1, 0x80, 0xBF⟩
  else none

/-- Whether a byte string completes what `st` expects. -/
def utf8From (st : Utf8State) : Bytes → Bool
  | [] => st.cont == 0
  | b :: rest =>
    match utf8Next st b with
    | none => false
    | some st' => utf8From st' rest

/-- Whether a byte string is UTF-8 (R10, R62). -/
def isUtf8 (t : Bytes) : Bool := utf8From .start t

/-- A text that may be encoded: 0 to 60 bytes of UTF-8 (R62, R121, R124, R126). -/
def textOk (t : Bytes) : Bool := decide (t.length ≤ Config.maxWirePayload) && isUtf8 t

/-- Whether a message may be encoded. -/
def Instr.wellFormed : Instr → Bool
  | .ping => true
  | .itfType => true
  | .version => true
  | .idGet => true
  | .gpioDirSet _ _ => true
  | .gpioDirGet _ => true
  | .gpioWrite _ _ => true
  | .gpioRead _ => true
  | .pwmSetDutyCycle _ _ => true
  | .pwmGetDutyCycle _ => true
  | .pwmSetFrequency _ _ => true
  | .pwmGetFrequency _ => true
  | .good => true
  | .errGeneric text => textOk text
  | .errCRC => true
  | .errUnknownCode => true
  | .errInvalidArgs text => textOk text
  | .errBusy => true
  | .respVersion text => textOk text
  | .respItfType _ => true
  | .respId _ => true
  | .respGpioDir _ _ => true
  | .respGpioValue _ _ => true
  | .respPwmDuty _ _ => true
  | .respPwmFreq _ _ => true

end Sys2Proof
end

