-- ==== Sys2Proof/Decode.lean ====
section
/-! DEFINITION. Frames and messages: parsing and serialising a raw frame (41_frame_protocol.md R94,
R96), reading a message from a frame and writing it (42_command_model.md R106 to R132), and the
opcode table (30_encoding.md R59 to R68). -/

namespace Sys2Proof

/-! ## Frames -/

/-- A Frame: opcode and payload (R27, R40). -/
structure Frame where
  opcode : U16
  payload : Bytes
  deriving DecidableEq, Repr

/-- The failures of `Frame.from_bytes` (R94). Of a checksum mismatch, `expected` is the CRC computed
and `actual` the CRC received (R95). -/
inductive FrameErr where
  | tooShort
  | checksumMismatch (expected actual : U16)
  | unknownOpcode (op : U16)
  deriving DecidableEq, Repr

/-- The checksum of a frame: over the opcode and the payload (R92). -/
def Frame.checksum (f : Frame) : U16 := crc16 (be16 f.opcode ++ f.payload)

/-- `Frame.to_bytes` (R96). -/
def Frame.toBytes (f : Frame) : Bytes :=
  be16 f.opcode ++ f.payload ++ be16 f.checksum

/-- The `u16` at the first two bytes of a byte string, and 0 for a shorter one (never asked). -/
def u16At : Bytes → U16
  | b0 :: b1 :: _ => u16Of b0 b1
  | _ => 0

/-- `Frame.from_bytes` (R94), its checks in that rule's order. `known` decides membership in `KNOWN`
(R59). -/
def Frame.fromBytes (known : U16 → Bool) (raw : Bytes) : Except FrameErr Frame :=
  if raw.length < 4 then .error .tooShort
  else
    let body := raw.take (raw.length - 2)
    let expected := crc16 body
    let actual := u16At (raw.drop (raw.length - 2))
    if actual ≠ expected then .error (.checksumMismatch expected actual)
    else
      let op := u16At raw
      if known op = false then .error (.unknownOpcode op)
      else
        let payload := body.drop 2
        if payload.length > Config.payloadCap then .error .tooShort
        else .ok ⟨op, payload⟩

/-! ## The opcode table -/

/-- The rows of the opcode table, in its order. -/
def Op.all : List Op :=
  [.ping, .itfType, .version, .idGet, .gpioDirSet, .gpioDirGet, .gpioWrite, .gpioRead,
    .pwmSetDutyCycle, .pwmGetDutyCycle, .pwmSetFrequency, .pwmGetFrequency, .good, .errGeneric,
    .errCRC, .errUnknownCode, .errInvalidArgs, .errBusy, .respVersion, .respItfType, .respId,
    .respGpioDir, .respGpioValue, .respPwmDuty, .respPwmFreq]

/-- The opcode of each row (R63 to R68). -/
def Op.code : Op → U16
  | .ping => 0x0000
  | .itfType => 0x0001
  | .version => 0x0002
  | .idGet => 0x0003
  | .gpioDirSet => 0x0100
  | .gpioDirGet => 0x0101
  | .gpioWrite => 0x0102
  | .gpioRead => 0x0103
  | .pwmSetDutyCycle => 0x0200
  | .pwmGetDutyCycle => 0x0201
  | .pwmSetFrequency => 0x0202
  | .pwmGetFrequency => 0x0203
  | .good => 0xFFFF
  | .errGeneric => 0xFFFE
  | .errCRC => 0xFFFD
  | .errUnknownCode => 0xFFFC
  | .errInvalidArgs => 0xFFFB
  | .errBusy => 0xFFFA
  | .respVersion => 0xFEFF
  | .respItfType => 0xFEFE
  | .respId => 0xFEFD
  | .respGpioDir => 0xFDFF
  | .respGpioValue => 0xFDFE
  | .respPwmDuty => 0xFCFF
  | .respPwmFreq => 0xFCFE

/-- The row of an opcode, by exact match (R59). -/
def Op.ofCode (c : U16) : Option Op := Op.all.find? fun o => o.code == c

/-- Whether an opcode is a row of the table. -/
def concreteKnown (c : U16) : Bool := (Op.ofCode c).isSome

/-- The payload layout of each row (R63 to R68). -/
def Op.layout : Op → List FieldTy
  | .ping => []
  | .itfType => []
  | .version => []
  | .idGet => []
  | .gpioDirSet => [.u8, .u8]
  | .gpioDirGet => [.u8]
  | .gpioWrite => [.u8, .u8]
  | .gpioRead => [.u8]
  | .pwmSetDutyCycle => [.u8, .f32]
  | .pwmGetDutyCycle => [.u8]
  | .pwmSetFrequency => [.u8, .f32]
  | .pwmGetFrequency => [.u8]
  | .good => []
  | .errGeneric => [.text]
  | .errCRC => []
  | .errUnknownCode => []
  | .errInvalidArgs => [.text]
  | .errBusy => []
  | .respVersion => [.text]
  | .respItfType => [.u8]
  | .respId => [.vec 8]
  | .respGpioDir => [.u8, .u8]
  | .respGpioValue => [.u8, .u8]
  | .respPwmDuty => [.u8, .f32]
  | .respPwmFreq => [.u8, .f32]

/-! ## Reading a message from a frame -/

/-- A `u8` field and nothing else (R113, R115, R117, R119, R127). -/
def decodeU8 (mk : Byte → Instr) (p : ArgParser) : Option Instr :=
  match p.consumeU8 with
  | none => none
  | some (a, _) => some (mk a)

/-- Two `u8` fields (R112, R114, R129, R130). -/
def decodeU8U8 (mk : Byte → Byte → Instr) (p : ArgParser) : Option Instr :=
  match p.consumeU8 with
  | none => none
  | some (a, p') =>
    match p'.consumeU8 with
    | none => none
    | some (b, _) => some (mk a b)

/-- A `u8` field and an `f32` field (R116, R118, R131, R132). -/
def decodeU8F32 (mk : Byte → F32 → Instr) (p : ArgParser) : Option Instr :=
  match p.consumeU8 with
  | none => none
  | some (a, p') =>
    match p'.consumeF32 with
    | none => none
    | some (v, _) => some (mk a v)

/-- The fields of each row, read in layout order; `none` if a consume fails (R107 to R132). -/
def Op.decodeArgs (o : Op) (p : ArgParser) : Option Instr :=
  match o with
  | .ping => some .ping
  | .itfType => some .itfType
  | .version => some .version
  | .idGet => some .idGet
  | .gpioDirSet => decodeU8U8 .gpioDirSet p
  | .gpioDirGet => decodeU8 .gpioDirGet p
  | .gpioWrite => decodeU8U8 .gpioWrite p
  | .gpioRead => decodeU8 .gpioRead p
  | .pwmSetDutyCycle => decodeU8F32 .pwmSetDutyCycle p
  | .pwmGetDutyCycle => decodeU8 .pwmGetDutyCycle p
  | .pwmSetFrequency => decodeU8F32 .pwmSetFrequency p
  | .pwmGetFrequency => decodeU8 .pwmGetFrequency p
  | .good => some .good
  | .errGeneric => some (.errGeneric p.consumeRest.1)
  | .errCRC => some .errCRC
  | .errUnknownCode => some .errUnknownCode
  | .errInvalidArgs => some (.errInvalidArgs p.consumeRest.1)
  | .errBusy => some .errBusy
  | .respVersion => some (.respVersion p.consumeRest.1)
  | .respItfType => decodeU8 .respItfType p
  | .respId => p.consumeId8.map fun r => .respId r.1
  | .respGpioDir => decodeU8U8 .respGpioDir p
  | .respGpioValue => decodeU8U8 .respGpioValue p
  | .respPwmDuty => decodeU8F32 .respPwmDuty p
  | .respPwmFreq => decodeU8F32 .respPwmFreq p

/-- Why a frame gives no message of the table. -/
inductive MessageErr where
  /-- The opcode is no row of the table: a UART or I2C table may define it. -/
  | noRow (op : U16)
  /-- A consume failed (R107, "invalid argument"). -/
  | invalidArgument (o : Op)
  deriving DecidableEq, Repr

/-- The message a frame carries: `from_frame` of R107 to R132 for the row of its opcode. -/
def Frame.message (f : Frame) : Except MessageErr Instr :=
  match Op.ofCode f.opcode with
  | none => .error (.noRow f.opcode)
  | some o =>
    match o.decodeArgs (ArgParser.new f.payload) with
    | none => .error (.invalidArgument o)
    | some i => .ok i

/-- Why a raw byte string is no message. -/
inductive DecodeErr where
  | frame (e : FrameErr)
  | message (e : MessageErr)
  deriving DecidableEq, Repr

/-- The decoder of a raw frame, on any bytes: `Frame.from_bytes` under the default empty command
tables, then `from_frame`. -/
def decode (raw : Bytes) : Except DecodeErr Instr :=
  match Frame.fromBytes concreteKnown raw with
  | .error e => .error (.frame e)
  | .ok f =>
    match f.message with
    | .error e => .error (.message e)
    | .ok i => .ok i

/-! ## The request and response sets of the rows (R106) -/

/-- A set of requests with its own Request type (R106): generic, or of one interface. -/
inductive RequestSet where
  | generic
  | interface (i : Itf)
  deriving DecidableEq, Repr

/-- The request set a row belongs to; `none` for a status code or a response (R63 to R68). -/
def Op.requestSet : Op → Option RequestSet
  | .ping => some .generic
  | .itfType => some .generic
  | .version => some .generic
  | .idGet => some .generic
  | .gpioDirSet => some (.interface .gpio)
  | .gpioDirGet => some (.interface .gpio)
  | .gpioWrite => some (.interface .gpio)
  | .gpioRead => some (.interface .gpio)
  | .pwmSetDutyCycle => some (.interface .pwm)
  | .pwmGetDutyCycle => some (.interface .pwm)
  | .pwmSetFrequency => some (.interface .pwm)
  | .pwmGetFrequency => some (.interface .pwm)
  | .good => none
  | .errGeneric => none
  | .errCRC => none
  | .errUnknownCode => none
  | .errInvalidArgs => none
  | .errBusy => none
  | .respVersion => none
  | .respItfType => none
  | .respId => none
  | .respGpioDir => none
  | .respGpioValue => none
  | .respPwmDuty => none
  | .respPwmFreq => none

/-- The response set a row belongs to; `none` for a request. The generic status codes and generic
responses form the set every interface shares (R106). -/
def Op.responseSet (o : Op) : Option RequestSet :=
  match highByte o.code with
  | 0xFF#8 => some .generic
  | 0xFE#8 => some .generic
  | 0xFD#8 => some (.interface .gpio)
  | 0xFC#8 => some (.interface .pwm)
  | _ => none

/-! ## Writing a message -/

/-- The row of a message. -/
def Instr.op : Instr → Op
  | .ping => .ping
  | .itfType => .itfType
  | .version => .version
  | .idGet => .idGet
  | .gpioDirSet _ _ => .gpioDirSet
  | .gpioDirGet _ => .gpioDirGet
  | .gpioWrite _ _ => .gpioWrite
  | .gpioRead _ => .gpioRead
  | .pwmSetDutyCycle _ _ => .pwmSetDutyCycle
  | .pwmGetDutyCycle _ => .pwmGetDutyCycle
  | .pwmSetFrequency _ _ => .pwmSetFrequency
  | .pwmGetFrequency _ => .pwmGetFrequency
  | .good => .good
  | .errGeneric _ => .errGeneric
  | .errCRC => .errCRC
  | .errUnknownCode => .errUnknownCode
  | .errInvalidArgs _ => .errInvalidArgs
  | .errBusy => .errBusy
  | .respVersion _ => .respVersion
  | .respItfType _ => .respItfType
  | .respId _ => .respId
  | .respGpioDir _ _ => .respGpioDir
  | .respGpioValue _ _ => .respGpioValue
  | .respPwmDuty _ _ => .respPwmDuty
  | .respPwmFreq _ _ => .respPwmFreq

/-- The payload of a message: the encode lines of R108 to R132. -/
def Instr.payload : Instr → Bytes
  | .ping => []
  | .itfType => []
  | .version => []
  | .idGet => []
  | .gpioDirSet pin dir => [pin, dir]
  | .gpioDirGet pin => [pin]
  | .gpioWrite pin value => [pin, value]
  | .gpioRead pin => [pin]
  | .pwmSetDutyCycle channel value => channel :: be32 value
  | .pwmGetDutyCycle channel => [channel]
  | .pwmSetFrequency channel value => channel :: be32 value
  | .pwmGetFrequency channel => [channel]
  | .good => []
  | .errGeneric text => text
  | .errCRC => []
  | .errUnknownCode => []
  | .errInvalidArgs text => text
  | .errBusy => []
  | .respVersion text => text
  | .respItfType tag => [tag]
  | .respId id => id.toBytes
  | .respGpioDir pin dir => [pin, dir]
  | .respGpioValue pin value => [pin, value]
  | .respPwmDuty channel value => channel :: be32 value
  | .respPwmFreq channel value => channel :: be32 value

/-- `to_frame` (R69, R108 to R132). -/
def Instr.toFrame (i : Instr) : Frame := ⟨i.op.code, i.payload⟩

/-- The raw frame of a message: `to_frame`, then `to_bytes` (R69). -/
def encode (i : Instr) : Bytes := i.toFrame.toBytes

/-! ## A word of the opcode table -/

/-- How many payload bytes the layout needs at least: the table gives operands no bits. -/
def Op.minPayload : Op → Nat
  | .gpioDirSet | .gpioWrite | .respGpioDir | .respGpioValue => 2
  | .gpioDirGet | .gpioRead | .pwmGetDutyCycle | .pwmGetFrequency | .respItfType => 1
  | .pwmSetDutyCycle | .pwmSetFrequency | .respPwmDuty | .respPwmFreq => 5
  | .respId => 8
  | .ping | .itfType | .version | .idGet | .good | .errGeneric | .errCRC | .errUnknownCode
  | .errInvalidArgs | .errBusy | .respVersion => 0

/-- The bytes a word gives after its opcode: byte `k` is bits `16 + 8k + 7` to `16 + 8k`. -/
def wordPayload (w : Nat) : Nat → Bytes
  | 0 => []
  | n + 1 => wordPayload w n ++ [BitVec.ofNat 8 (w >>> (16 + 8 * n))]

/-- The raw frame of a table word: bits 15 to 0 are the opcode, sent big-endian; the payload follows,
with zeros up to the row's layout; then the checksum of the two (DESIGN CHOICE, log entry 10: the
table gives the checksum no bits and no free value, R92). -/
def tableWordRaw (nbits w : Nat) : Bytes :=
  let op : U16 := BitVec.ofNat 16 w
  let given := wordPayload (w % 2 ^ nbits) ((nbits - 16) / 8)
  let need := match Op.ofCode op with
    | none => 0
    | some o => o.minPayload
  Frame.toBytes ⟨op, given ++ List.replicate (need - given.length) 0⟩

/-- The message the decoder reads from a table word. -/
def decodeTableWord (nbits w : Nat) : Option Instr :=
  match decode (tableWordRaw nbits w) with
  | .error _ => none
  | .ok i => some i

end Sys2Proof
end

