-- ==== Sys2Proof/Machine/Flags.lean ====
section
/-! DEFINITION. The block's one flag, `DEC.esc` (10_state.md R26): what a received byte means under
it (30_encoding.md R55, R56, R74; 40_transport_codec.md R78). -/

namespace Sys2Proof

/-- The frame terminator `END` (R55). -/
def bEND : Byte := 0xC0

/-- The escape byte `ESC` (R55). -/
def bESC : Byte := 0xDB

/-- The escaped terminator `ESC_END` (R55). -/
def bESC_END : Byte := 0xDC

/-- The escaped escape `ESC_ESC` (R55). -/
def bESC_ESC : Byte := 0xDD

/-- What the decoder makes of one byte. -/
inductive ByteClass where
  /-- `END` outside escape state: the frame is complete. -/
  | terminator
  /-- `ESC` outside escape state: `esc` becomes true, nothing is appended. -/
  | enterEscape
  /-- A decoded byte to append; `esc` becomes false. -/
  | data (v : Byte)
  /-- A byte that follows `ESC` and is neither `ESC_END` nor `ESC_ESC` (R74). -/
  | badEscape
  deriving DecidableEq, Repr

/-- The class of byte `b` when the flag is `esc` (R78). -/
def byteClass (esc : Bool) (b : Byte) : ByteClass :=
  if esc = false then
    if b = bEND then .terminator
    else if b = bESC then .enterEscape
    else .data b
  else
    if b = bESC_END then .data bEND
    else if b = bESC_ESC then .data bESC
    else .badEscape

end Sys2Proof
end

