-- ==== Sys2Proof/Machine/Transport.lean ====
section
/-! DEFINITION. The Transport Codec (40_transport_codec.md R77 to R89). The capacities are arguments
(93_implementation_defined.md U1, U2); the block uses those of Config (R8). -/

namespace Sys2Proof

/-- The failures of the codec (R78, R82). -/
inductive TransportErr where
  | badEscape
  | bufferFull
  deriving DecidableEq, Repr

/-! ## Decoder -/

/-- The decoder's state (10_state.md R23). -/
structure Dec where
  acc : Bytes
  esc : Bool
  deriving DecidableEq, Repr

/-- The decoder after `DEC.reset` (R80). -/
def Dec.empty : Dec := ⟨[], false⟩

/-- What `DEC.feed` returns (R78, R79). -/
inductive FeedResult where
  | ok (consumed : Nat) (frameComplete : Bool)
  | err (kind : TransportErr) (offset : Nat)
  deriving DecidableEq, Repr

/-- `DEC.feed` from offset `k` of its input on (R78). On a failure the decoder is as it was before
the byte at the offset reported. -/
def decFeedFrom (cap : Nat) : Nat → Dec → Bytes → FeedResult × Dec
  | k, d, [] => (.ok k false, d)
  | k, d, b :: rest =>
    match byteClass d.esc b with
    | .terminator => (.ok (k + 1) true, d)
    | .enterEscape => decFeedFrom cap (k + 1) { d with esc := true } rest
    | .badEscape => (.err .badEscape k, d)
    | .data v =>
      if d.acc.length = cap then (.err .bufferFull k, d)
      else decFeedFrom cap (k + 1) ⟨d.acc ++ [v], false⟩ rest

/-- `DEC.feed` (R78). -/
def decFeed (cap : Nat) (d : Dec) (input : Bytes) : FeedResult × Dec := decFeedFrom cap 0 d input

/-! ## Encoder -/

/-- `stuff` (R56). -/
def stuff (b : Byte) : Bytes :=
  if b = bEND then [bESC, bESC_END]
  else if b = bESC then [bESC, bESC_ESC]
  else [b]

/-- The wire form of a raw frame (R56, R86). -/
def wire (raw : Bytes) : Bytes := raw.flatMap stuff ++ [bEND]

/-- What `ENC.feed` and `ENC.finish` return (R82, R83). -/
inductive EncResult where
  | ok (consumed : Nat)
  | bufferFull (offset : Nat)
  deriving DecidableEq, Repr

/-- `ENC.feed` from offset `k` of its input on (R82): a two-byte escape is never split. -/
def encFeedFrom (cap : Nat) : Nat → Bytes → Bytes → EncResult × Bytes
  | k, buf, [] => (.ok k, buf)
  | k, buf, b :: rest =>
    if buf.length + (stuff b).length > cap then (.bufferFull k, buf)
    else encFeedFrom cap (k + 1) (buf ++ stuff b) rest

/-- `ENC.feed` (R82). -/
def encFeed (cap : Nat) (buf input : Bytes) : EncResult × Bytes := encFeedFrom cap 0 buf input

/-- `ENC.finish` (R83). -/
def encFinish (cap : Nat) (buf : Bytes) : EncResult × Bytes :=
  if buf.length + 1 > cap then (.bufferFull 0, buf) else (.ok 0, buf ++ [bEND])

end Sys2Proof
end

