-- ==== Sys2Proof/Machine/State.lean ====
section
/-! DEFINITION. The state of the block (10_state.md R21 to R36) and its interfaces, as plain data; the
two kinds of stop of the host's interface; the machine after reset (R35). -/

namespace Sys2Proof.Machine

/-- The events of the DIAG channel (10_state.md R34). The fields of a quantizer report stand in the
order of 44_frequency_quantizer.md R169. -/
inductive DiagEvent where
  | transportError (kind : TransportErr) (offset : Nat)
  | frameError (e : FrameErr)
  | txDropped (offset : Nat)
  | quantizerReport (periodWanted achievedPeriod : Rat) (top iterationsUsed : Nat)
      (achievedFrequency : Rat) (divFrac divInt : Nat)
  deriving DecidableEq, Repr

/-- What the block puts on its output channels (00_scope.md R17): a message on TX (10_state.md R32), a
call on PORT with the answer drawn for it (R31), an event on DIAG (R34). -/
inductive OutEvent where
  | tx (message : Bytes)
  | port (call : PortCall × PortAnswer)
  | diag (event : DiagEvent)
  deriving DecidableEq, Repr

/-- An external reset that waits (70_reset_and_hazards.md R191), with where it lands in the round of
the control loop that is next: before it, or before that round's response is given to TX, which is
then lost. -/
inductive ResetReq where
  | none
  | atOnce
  | beforeSend
  deriving DecidableEq, Repr

/-- The state of the block. -/
structure State where
  /-- The inputs of the CFG interface, sampled at reset only (R33). -/
  cfgIn : CfgParams
  /-- The configuration registers (R22). -/
  cfg : Cfg
  /-- The decoder: `DEC.acc` and `DEC.esc` (R23). -/
  dec : Dec
  /-- The encoder buffer `ENC.buf` (R24). -/
  enc : Bytes
  /-- The RX chunk being processed (20_memory.md R41); empty between chunks. -/
  chunk : Bytes
  /-- The feed cursor `off` in that chunk (R25); 0 between chunks. -/
  off : Nat
  /-- The chunks delivered by the host and not yet taken, oldest first (R30). -/
  rx : List Bytes
  /-- What has been put on TX, PORT and DIAG, in the block's one program order, oldest first (R31, R32,
  R34; 20_memory.md R50). The three sequences of 43_dispatcher.md R157 are the views `State.tx`,
  `State.portLog` and `State.diag`. That State keeps it, and keeps it over a reset, is a DESIGN CHOICE
  (log entry 12, safe). -/
  out : List OutEvent
  /-- The MODEL's own: port answers fixed in advance, oldest first (log entry 6). -/
  portTape : List PortAnswer
  /-- The MODEL's own: how many port answers have been drawn (log entry 6). -/
  draws : Nat
  /-- The external reset that waits, if any (70_reset_and_hazards.md R191). -/
  resetReq : ResetReq
  /-- The MODEL's own: how many resets there have been (log entry 3). -/
  resets : Nat
  deriving DecidableEq, Repr

/-- Why the block stops with a fault: never. "No error in the core is fatal" (60_exceptions.md R173,
R180): every failure is a result, answered or reported, and the control loop goes on. -/
inductive Fault where
  deriving DecidableEq, Repr

/-- Why a message has no meaning. -/
inductive Refusal where
  /-- Raised by an arm of `exec` for an opcode-table row without a meaning; no arm does. Safe: the
  model would stop where the block goes on. -/
  | notModelled (mnemonic : String)
  deriving DecidableEq, Repr

/-- The configuration registers after a reset that samples `p` and is reset number `n` (R22, R35). -/
def latchCfg (p : CfgParams) (n : Nat) : Cfg := { p with deviceId := Config.deviceIdDraw n }

/-- The machine after a power-on with CFG inputs `p` (R35, R192, R193): codec empty, nothing received,
nothing sent. -/
def State.powerOn (p : CfgParams) : State where
  cfgIn := p
  cfg := latchCfg p 0
  dec := Dec.empty
  enc := []
  chunk := []
  off := 0
  rx := []
  out := []
  portTape := []
  draws := 0
  resetReq := .none
  resets := 1

/-- The machine right after reset, with the build parameters of Config (R35). -/
def State.reset : State := State.powerOn Config.params

end Sys2Proof.Machine
end

