-- ==== Sys2Proof/Machine/Ops.lean ====
section
/-! DEFINITION. The named operations over the state: its channels and buffers (00_scope.md R17), the
encoder and the sending of a message (43_dispatcher.md R156), the PORT calls (10_state.md R31), the
one shared operation that answers a failure (60_exceptions.md R174), and what the outside world can
do (70_reset_and_hazards.md R191, R201). -/

namespace Sys2Proof.Machine

/-! ## Channels and buffers -/

/-- The message of an event on TX. -/
def OutEvent.message? : OutEvent → Option Bytes
  | .tx m => some m
  | .port _ => none
  | .diag _ => none

/-- The call of an event on PORT, with its answer. -/
def OutEvent.call? : OutEvent → Option (PortCall × PortAnswer)
  | .tx _ => none
  | .port c => some c
  | .diag _ => none

/-- The event of an event on DIAG. -/
def OutEvent.report? : OutEvent → Option DiagEvent
  | .tx _ => none
  | .port _ => none
  | .diag e => some e

/-- The sequence of TX messages, oldest first (R32, R157). -/
def State.tx (s : State) : List Bytes := s.out.filterMap OutEvent.message?

/-- The sequence of PORT calls with their answers, oldest first (R31, R157). -/
def State.portLog (s : State) : List (PortCall × PortAnswer) := s.out.filterMap OutEvent.call?

/-- The sequence of DIAG events, oldest first (R34, R157). -/
def State.diag (s : State) : List DiagEvent := s.out.filterMap OutEvent.report?

/-- Output events, put out behind all earlier ones (20_memory.md R50). -/
def State.emit (es : List OutEvent) (s : State) : State := { s with out := s.out ++ es }

/-- `emit_tx` (R17, R32). -/
def State.emitTx (m : Bytes) (s : State) : State := s.emit [.tx m]

/-- `emit_diag` (R17, R34). -/
def State.emitDiag (e : DiagEvent) (s : State) : State := s.emit [.diag e]

/-- `ENC.buf <- b`. -/
def State.setEnc (b : Bytes) (s : State) : State := { s with enc := b }

/-- `DEC <- d`. -/
def State.setDec (d : Dec) (s : State) : State := { s with dec := d }

/-- `DEC.reset` (40_transport_codec.md R80). -/
def State.decReset (s : State) : State := s.setDec Dec.empty

/-! ## Sending (R156) -/

/-- A message that does not fit the encoder is dropped: DIAG `TxDropped`, encoder reset (R156, R182). -/
def State.dropTx (k : Nat) (s : State) : State := (s.emitDiag (.txDropped k)).setEnc []

/-- `send_response`, from the raw frame on (R156). -/
def State.sendRaw (raw : Bytes) (s : State) : State :=
  match encFeed Config.encCap [] raw with
  | (.bufferFull k, buf) => (s.setEnc buf).dropTx k
  | (.ok _, buf) =>
    match encFinish Config.encCap buf with
    | (.bufferFull k, buf') => (s.setEnc buf').dropTx k
    | (.ok _, buf') => ((s.setEnc buf').emitTx buf').setEnc []

/-- `send_response` for a frame (R156). -/
def State.sendFrame (f : Frame) (s : State) : State := s.sendRaw f.toBytes

/-- `send_response` for a message of the table (R156). -/
def State.send (resp : Instr) (s : State) : State := s.sendFrame resp.toFrame

/-! ## PORT calls -/

/-- How many bits the number of an `Ok` value of a type has. -/
def resBits : ResTy → Nat
  | .none => 0
  | .bool => 1
  | .u8 => 8
  | .u16 => 16
  | .u32 => 32
  | .f32 => 32
  | .bytes _ => 0

/-- How many bytes the byte string of an `Ok` value of a type has at most. -/
def resBytes : ResTy → Nat
  | .bytes max => max
  | .none | .bool | .u8 | .u16 | .u32 | .f32 => 0

/-- The type of the `Ok` value of a call (60_exceptions.md R187, R188). -/
def callRes : PortCall → ResTy
  | .dirSet _ _ => .none
  | .dirGet _ => .u8
  | .pinWrite _ _ => .none
  | .pinRead _ => .u8
  | .enable _ => .none
  | .disable _ => .none
  | .setDuty _ _ => .none
  | .getDuty _ => .f32
  | .setTop _ _ => .none
  | .setDivInt _ _ => .none
  | .setDivFrac _ _ => .none
  | .setPhaseCorrect _ _ => .none
  | .getTop _ => .u16
  | .getDivInt _ => .u8
  | .getDivFrac _ => .u8
  | .getPhaseCorrect _ => .bool
  | .table _ _ _ res => res

/-- The interface whose operation a call is (R187, R188, R151). -/
def callItf : PortCall → Itf
  | .dirSet _ _ => .gpio
  | .dirGet _ => .gpio
  | .pinWrite _ _ => .gpio
  | .pinRead _ => .gpio
  | .enable _ => .pwm
  | .disable _ => .pwm
  | .setDuty _ _ => .pwm
  | .getDuty _ => .pwm
  | .setTop _ _ => .pwm
  | .setDivInt _ _ => .pwm
  | .setDivFrac _ _ => .pwm
  | .setPhaseCorrect _ _ => .pwm
  | .getTop _ => .pwm
  | .getDivInt _ => .pwm
  | .getDivFrac _ => .pwm
  | .getPhaseCorrect _ => .pwm
  | .table itf _ _ _ => itf

/-- An answer cut to the call's type: `Ok(v)` has a `v` of that type (R31). -/
def fitAnswer (c : PortCall) : PortAnswer → PortAnswer
  | .err => .err
  | .ok v =>
    .ok ⟨BitVec.ofNat 32 (v.num.toNat % 2 ^ resBits (callRes c)), v.data.take (resBytes (callRes c))⟩

/-- The answer the port gives to call `c` now: a draw (R31, R186), taken from the tape while it lasts
and free after it (log entry 6). -/
def State.portAnswer (c : PortCall) (s : State) : PortAnswer :=
  fitAnswer c (match s.portTape with
    | [] => Config.portDraw s.draws c
    | a :: _ => a)

/-- The state after call `c` and its answer. The block does not record settings: only the channel
shows the call (R28, R29). -/
def State.afterPort (c : PortCall) (s : State) : State :=
  { s with
    portTape := s.portTape.tail
    draws := s.draws + 1
    out := s.out ++ [.port (c, s.portAnswer c)] }

/-- Calls made in order, stopping at the first `Err` (43_dispatcher.md R137): the values of the
answers, or `none`, and the state after the last call made. -/
def State.portAll : List PortCall → State → Option (List PortVal) × State
  | [], s => (some [], s)
  | c :: cs, s =>
    match s.portAnswer c with
    | .err => (none, s.afterPort c)
    | .ok v =>
      match (s.afterPort c).portAll cs with
      | (none, s') => (none, s')
      | (some vs, s') => (some (v :: vs), s')

/-! ## Failures (R174, R180) -/

/-- The failures that are answered: rows 3 to 11 of the error table (R174). -/
inductive Failure where
  | frame (e : FrameErr)
  | notARequest
  | notThisInterface
  | invalidArgument
  | badFrequency
  | hwFailure
  | hwValueRange
  deriving DecidableEq, Repr

/-- The response of a failure: the columns "code sent" and "payload" of R174. -/
def Failure.response (r : Reasons) : Failure → Instr
  | .frame .tooShort => .errGeneric r.tooShort
  | .frame (.checksumMismatch _ _) => .errCRC
  | .frame (.unknownOpcode _) => .errUnknownCode
  | .notARequest => .errUnknownCode
  | .notThisInterface => .errUnknownCode
  | .invalidArgument => .errInvalidArgs r.invalidArgs
  | .badFrequency => .errInvalidArgs r.badFrequency
  | .hwFailure => .errGeneric r.hwFailure
  | .hwValueRange => .errGeneric r.hwValueRange

/-- The DIAG events of a failure: the column "DIAG event" of R174. -/
def Failure.events : Failure → List DiagEvent
  | .frame e => [.frameError e]
  | .notARequest => []
  | .notThisInterface => []
  | .invalidArgument => []
  | .badFrequency => []
  | .hwFailure => []
  | .hwValueRange => []

/-- A failure is taken: its DIAG event, then its response (R152, R174). It stands for trap entry
(R180); the control loop going on with the next byte stands for the return. -/
def State.fail (e : Failure) (s : State) : State :=
  (s.emit (e.events.map .diag)).send (e.response s.cfg.reason)

/-- Recovery from a transport error: DIAG event, decoder reset, no response (43_dispatcher.md R155). -/
def State.transportFail (kind : TransportErr) (k : Nat) (s : State) : State :=
  (s.emitDiag (.transportError kind k)).decReset

/-! ## Handlers' shared shapes -/

/-- A handler of interface `i` runs only where `i` is installed (R136, R177). -/
def State.whenInstalled (i : Itf) (handler : State → State) (s : State) : State :=
  if s.cfg.itf = i then handler s else s.fail .notThisInterface

/-- One port call, answered by `reply` of its `Ok` value, or HW_FAIL (R137). -/
def State.callAndReply (c : PortCall) (reply : PortVal → Instr) (s : State) : State :=
  match s.portAnswer c with
  | .err => (s.afterPort c).fail .hwFailure
  | .ok v => (s.afterPort c).send (reply v)

/-- The next state of an outcome, passed on. -/
def mapNext (g : State → State) : Host.Outcome State Fault Refusal → Host.Outcome State Fault Refusal
  | .next s => .next (g s)
  | .fault r => .fault r
  | .refused r => .refused r

/-! ## The RX cursor -/

/-- The next chunk is taken (R154: `off := 0`). -/
def State.takeChunk (c : Bytes) (rest : List Bytes) (s : State) : State :=
  { s with chunk := c, off := 0, rx := rest }

/-- The cursor advances by `n`; at the end of the chunk both are dropped (R25, R154). -/
def State.advance (n : Nat) (s : State) : State :=
  if s.off + n < s.chunk.length then { s with off := s.off + n }
  else { s with chunk := [], off := 0 }

/-! ## What the outside world can do (R201) -/

/-- The host delivers an RX chunk (R30; an empty one is allowed: DESIGN CHOICE, log entry 14, safe). -/
def State.deliver (c : Bytes) (s : State) : State := { s with rx := s.rx ++ [c] }

/-- An external reset is asked for, to land at `r`; it is taken in the next step (R191). -/
def State.requestReset (r : ResetReq) (s : State) : State := { s with resetReq := r }

/-- The CFG inputs change; the registers do not (R33). -/
def State.setCfgIn (p : CfgParams) (s : State) : State := { s with cfgIn := p }

/-- The reset (R35, R191, R192): CFG sampled again with a fresh `DEVICE_ID`, codec cleared, the chunk
in progress lost, no PORT call, TX message or DIAG event. Chunks not yet taken stay with the host
(log entry 5). -/
def State.takeReset (s : State) : State :=
  { s with
    cfg := latchCfg s.cfgIn s.resets
    dec := Dec.empty
    enc := []
    chunk := []
    off := 0
    resetReq := .none
    resets := s.resets + 1 }

/-- What a round put on TX is taken back: a response not yet given to TX when a reset lands is lost,
and no port call is undone (R191). `before` is what had been put out before the round. -/
def State.loseResponse (before : List OutEvent) (s : State) : State :=
  { s with out := before ++ (s.out.drop before.length).filter fun e => e.message?.isNone }

end Sys2Proof.Machine
end

