-- ==== Sys2Proof/Machine/Generic.lean ====
section
/-! DEFINITION. The generic request handlers, the same in every build (43_dispatcher.md R139 to R142). -/

namespace Sys2Proof.Machine

/-- Ping (R139). -/
def execPing (s : State) : Host.Outcome State Fault Refusal := .next (s.send .good)

/-- ItfType (R140). -/
def execItfType (s : State) : Host.Outcome State Fault Refusal :=
  .next (s.send (.respItfType s.cfg.itfTag))

/-- Version (R141). -/
def execVersion (s : State) : Host.Outcome State Fault Refusal :=
  .next (s.send (.respVersion s.cfg.version))

/-- IdGet (R142). -/
def execIdGet (s : State) : Host.Outcome State Fault Refusal :=
  .next (s.send (.respId s.cfg.deviceId))

end Sys2Proof.Machine
end

