-- ==== Sys2Proof/Machine/Gpio.lean ====
section
/-! DEFINITION. The GPIO request handlers (43_dispatcher.md R143 to R146). The block checks neither
pin nor direction nor level (60_exceptions.md R190). -/

namespace Sys2Proof.Machine

/-- GpioDirSet (R143). -/
def execGpioDirSet (pin dir : Byte) (s : State) : Host.Outcome State Fault Refusal :=
  .next (s.whenInstalled .gpio (State.callAndReply (.dirSet pin dir) fun _ => .good))

/-- GpioDirGet (R144). -/
def execGpioDirGet (pin : Byte) (s : State) : Host.Outcome State Fault Refusal :=
  .next (s.whenInstalled .gpio
    (State.callAndReply (.dirGet pin) fun v => .respGpioDir pin (v.num.setWidth 8)))

/-- GpioWrite (R145). -/
def execGpioWrite (pin value : Byte) (s : State) : Host.Outcome State Fault Refusal :=
  .next (s.whenInstalled .gpio (State.callAndReply (.pinWrite pin value) fun _ => .good))

/-- GpioRead (R146). -/
def execGpioRead (pin : Byte) (s : State) : Host.Outcome State Fault Refusal :=
  .next (s.whenInstalled .gpio
    (State.callAndReply (.pinRead pin) fun v => .respGpioValue pin (v.num.setWidth 8)))

end Sys2Proof.Machine
end

