-- ==== Sys2Proof/Machine/Float32.lean ====
section
/-! DEFINITION. Reading an `f32` pattern and rounding to one (00_scope.md R19). -/

namespace Sys2Proof

/-- `m × 2^k`, exactly. -/
def scale2 (m : Nat) : Int → Rat
  | .ofNat n => ((m * 2 ^ n : Nat) : Rat)
  | .negSucc n => mkRat m (2 ^ (n + 1))

/-- The value of an `f32` pattern (R19). -/
inductive F32Val where
  | nan
  | inf (neg : Bool)
  | fin (q : Rat)
  deriving DecidableEq, Repr

/-- The exponent field, `u[30:23]` (R19). -/
def f32Exp (u : F32) : Nat := (u.extractLsb' 23 8).toNat

/-- The fraction field, `u[22:0]` (R19). -/
def f32Frac (u : F32) : Nat := (u.extractLsb' 0 23).toNat

/-- The magnitude of a finite pattern (R19). -/
def f32Mag (u : F32) : Rat :=
  if f32Exp u = 0 then scale2 (f32Frac u) (-149)
  else scale2 (2 ^ 23 + f32Frac u) ((f32Exp u : Int) - 150)

/-- `value(u)` (R19). -/
def f32Value (u : F32) : F32Val :=
  if f32Exp u = 255 then
    if f32Frac u = 0 then .inf (u.getLsbD 31) else .nan
  else .fin (if u.getLsbD 31 then - f32Mag u else f32Mag u)

/-- The integer nearest to `x ≥ 0`; a tie goes to the even one (R19). -/
def roundHalfEven (x : Rat) : Nat :=
  let low := x.floor.toNat
  let part := x - (low : Rat)
  if part < 1 / 2 then low
  else if 1 / 2 < part then low + 1
  else if low % 2 = 0 then low
  else low + 1

/-- The greatest `k` with `2^k ≤ q`, for `q > 0`. -/
def floorLog2 (q : Rat) : Int :=
  let k : Int := (q.num.natAbs.log2 : Int) - (q.den.log2 : Int)
  if scale2 1 k ≤ q then k else k - 1

/-- The largest finite pattern. -/
def f32Max : F32 := 0x7F7FFFFF

/-- `rne32(q)` for `q > 0` (R19): the significand is `q` in units of the last place at the exponent
of `q`, rounded to nearest, ties to even; a significand rounded up to the next power of two carries
into the exponent field. Beyond the largest finite pattern that pattern is the nearest one, and a
reported value is always finite (DEDUCED from R19 and 42_command_model.md R132, log entry 8). -/
def rne32 (q : Rat) : F32 :=
  let e : Int := max (floorLog2 q) (-126)
  let sig := roundHalfEven (q / scale2 1 (e - 23))
  let bits := (e + 126).toNat * 2 ^ 23 + sig
  if bits ≥ 0x7F800000 then f32Max else BitVec.ofNat 32 bits

end Sys2Proof
end

