-- ==== Sys2Proof/Machine/Quantizer.lean ====
section
/-! DEFINITION. The Frequency Quantizer's search (44_frequency_quantizer.md R158 to R166), on exact
rationals (00_scope.md R18). -/

namespace Sys2Proof

/-- `clamp` on integers (R18). -/
def clampInt (v a b : Int) : Int := min (max v a) b

/-- `|q|` (R18). -/
def ratAbs (q : Rat) : Rat := if q < 0 then -q else q

/-- `pwm_period` (R158), in `FSYS` cycles. -/
def pwmPeriod (top : Nat) (pc : Bool) (di df : Nat) : Rat :=
  ((top : Rat) + 1) * (if pc then 2 else 1) * ((di : Rat) + (df : Rat) / 16)

/-- `pwm_frequency` (R158), in Hz. -/
def pwmFrequency (fsys top : Nat) (pc : Bool) (di df : Nat) : Rat :=
  (fsys : Rat) / pwmPeriod top pc di df

/-- A candidate of the search (R159, R164). -/
structure Cand where
  df : Nat
  period : Rat
  realF : Rat
  err : Rat
  deriving DecidableEq, Repr

/-- What the search keeps fixed: the target and the coarse settings (R160 to R162). -/
structure Coarse where
  fsys : Nat
  target : Rat
  top : Nat
  pc : Bool
  di : Nat
  deriving DecidableEq, Repr

/-- The settings the search starts from (R161, R162). -/
def coarse (fsys : Nat) (f : Rat) : Coarse where
  fsys := fsys
  target := f
  top := (clampInt ((fsys : Rat) / f / 2).floor 0 Config.topMax).toNat
  pc := if Config.fPc < f then false else true
  di := if f < Config.fLow then Config.diWide else 1

/-- The search variable of an iteration (R163). -/
def searchPoint (lo hi : Int) : Int := clampInt ((lo + hi) / 2) 0 Config.sMax

/-- The candidate at search variable `s`: `DIV_FRAC` is `s mod 16` (R163, R164). -/
def candidate (c : Coarse) (s : Int) : Cand :=
  let df := (s % 16).toNat
  let realF := pwmFrequency c.fsys c.top c.pc c.di df
  { df := df, period := pwmPeriod c.top c.pc c.di df, realF := realF,
    err := ratAbs (c.target - realF) }

/-- The better of the best so far and a new candidate: the new one only if its error is strictly
smaller (R164). -/
def better : Option Cand → Cand → Cand
  | none, c => c
  | some b, c => if c.err < b.err then c else b

/-- The search from iteration number `iter`, with `more` iterations allowed after it: the number of
the last iteration, and the best candidate (R159, R163 to R166). -/
def search (c : Coarse) : (more iter : Nat) → (lo hi : Int) → Option Cand → Nat × Cand
  | 0, iter, lo, hi, best => (iter, better best (candidate c (searchPoint lo hi)))
  | more + 1, iter, lo, hi, best =>
    let s := searchPoint lo hi
    let cand := candidate c s
    let best' := better best cand
    if cand.err ≤ Config.tol then (iter, best')
    else if c.target < cand.realF then search c more (iter + 1) (s + 1) hi (some best')
    else search c more (iter + 1) lo (s - 1) (some best')

/-- The record `Q` that `quantize` returns (R159). -/
structure Quant where
  periodWanted : Rat
  achievedPeriod : Rat
  top : Nat
  pc : Bool
  divInt : Nat
  divFrac : Nat
  iterationsUsed : Nat
  achievedFrequency : Rat
  deriving DecidableEq, Repr

/-- `quantize(f)` for `f > 0` (R159). -/
def quantize (fsys : Nat) (f : Rat) : Quant :=
  let c := coarse fsys f
  let r := search c (Config.iterMax - 1) 1 0 Config.sMax none
  { periodWanted := (fsys : Rat) / f
    achievedPeriod := r.2.period
    top := c.top
    pc := c.pc
    divInt := c.di
    divFrac := r.2.df
    iterationsUsed := r.1
    achievedFrequency := r.2.realF }

end Sys2Proof
end

