-- ==== Sys2Proof/Machine/Pwm.lean ====
section
/-! DEFINITION. The PWM request handlers (43_dispatcher.md R147 to R150) with the quantizer's commit
and report (44_frequency_quantizer.md R167 to R169). -/

namespace Sys2Proof.Machine

/-- PwmSetDutyCycle (R147): the pattern goes to the port as it is. -/
def execPwmSetDutyCycle (channel : Byte) (value : F32) (s : State) :
    Host.Outcome State Fault Refusal :=
  .next (s.whenInstalled .pwm (State.callAndReply (.setDuty channel value) fun _ => .good))

/-- PwmGetDutyCycle (R148). -/
def execPwmGetDutyCycle (channel : Byte) (s : State) : Host.Outcome State Fault Refusal :=
  .next (s.whenInstalled .pwm
    (State.callAndReply (.getDuty channel) fun v => .respPwmDuty channel v.num))

/-- The target of a set-frequency request, if it is a finite positive number (R149). -/
def frequencyTarget (value : F32) : Option Rat :=
  match f32Value value with
  | .nan => none
  | .inf _ => none
  | .fin f => if f ≤ 0 then none else some f

/-- The DIAG report of a quantizer run (R169). -/
def quantizerReport (q : Quant) : DiagEvent :=
  .quantizerReport q.periodWanted q.achievedPeriod q.top q.iterationsUsed q.achievedFrequency
    q.divFrac q.divInt

/-- The calls of `commit`, in order (R167). -/
def commitCalls (channel : Byte) (q : Quant) : List PortCall :=
  [.setTop channel (BitVec.ofNat 16 q.top),
    .setDivInt channel (BitVec.ofNat 8 q.divInt),
    .setDivFrac channel (BitVec.ofNat 8 q.divFrac),
    .setPhaseCorrect channel q.pc]

/-- The set-frequency handler where PWM is installed (R149). -/
def State.setFrequency (channel : Byte) (value : F32) (s : State) : State :=
  match frequencyTarget value with
  | none => s.fail .badFrequency
  | some f =>
    let q := quantize s.cfg.fsys f
    match (s.emitDiag (quantizerReport q)).portAll (commitCalls channel q) with
    | (none, s') => s'.fail .hwFailure
    | (some _, s') => s'.send (.respPwmFreq channel (rne32 q.achievedFrequency))

/-- PwmSetFrequency (R149). -/
def execPwmSetFrequency (channel : Byte) (value : F32) (s : State) :
    Host.Outcome State Fault Refusal :=
  .next (s.whenInstalled .pwm (State.setFrequency channel value))

/-- The calls of a get-frequency request, in order (R150). -/
def readCalls (channel : Byte) : List PortCall :=
  [.getTop channel, .getDivInt channel, .getDivFrac channel, .getPhaseCorrect channel]

/-- The get-frequency handler where PWM is installed (R150). -/
def State.getFrequency (channel : Byte) (s : State) : State :=
  match s.portAll (readCalls channel) with
  | (some [top, di, df, pc], s') =>
    if di.num = 0 ∨ 15 < df.num.toNat then s'.fail .hwValueRange
    else
      s'.send (.respPwmFreq channel
        (rne32 (pwmFrequency s.cfg.fsys top.num.toNat (pc.num.getLsbD 0) di.num.toNat
          df.num.toNat)))
  | (_, s') => s'.fail .hwFailure

/-- PwmGetFrequency (R150). -/
def execPwmGetFrequency (channel : Byte) (s : State) : Host.Outcome State Fault Refusal :=
  .next (s.whenInstalled .pwm (State.getFrequency channel))

end Sys2Proof.Machine
end

