-- ==== Sys2Proof/Machine/Responses.lean ====
section
/-! DEFINITION. The status codes and the responses, received as a frame: a known opcode that is no
request is answered ErrUnknownCode, and the port is not called (30_encoding.md R73,
43_dispatcher.md R136, 60_exceptions.md R177, R183). What they are when the block SENDS them is
`Instr.toFrame` (42_command_model.md R120 to R132) and `State.send` (R156). -/

namespace Sys2Proof.Machine

/-- Good received (encoding R120; routing R73, R136). -/
def execGood (s : State) : Host.Outcome State Fault Refusal :=
  .next (s.fail .notARequest)

/-- ErrGeneric received (encoding R121; routing R73, R136). -/
def execErrGeneric (_reason : Bytes) (s : State) : Host.Outcome State Fault Refusal :=
  .next (s.fail .notARequest)

/-- ErrCRC received (encoding R122; routing R73, R136). -/
def execErrCRC (s : State) : Host.Outcome State Fault Refusal :=
  .next (s.fail .notARequest)

/-- ErrUnknownCode received (encoding R123; routing R73, R136). -/
def execErrUnknownCode (s : State) : Host.Outcome State Fault Refusal :=
  .next (s.fail .notARequest)

/-- ErrInvalidArgs received (encoding R124; routing R73, R136). -/
def execErrInvalidArgs (_reason : Bytes) (s : State) : Host.Outcome State Fault Refusal :=
  .next (s.fail .notARequest)

/-- ErrBusy received (encoding R125, R183; routing R73, R136). -/
def execErrBusy (s : State) : Host.Outcome State Fault Refusal :=
  .next (s.fail .notARequest)

/-- RespVersion received (encoding R126; routing R73, R136). -/
def execRespVersion (_version : Bytes) (s : State) : Host.Outcome State Fault Refusal :=
  .next (s.fail .notARequest)

/-- RespItfType received (encoding R127; routing R73, R136). -/
def execRespItfType (_tag : Byte) (s : State) : Host.Outcome State Fault Refusal :=
  .next (s.fail .notARequest)

/-- RespId received (encoding R128; routing R73, R136). -/
def execRespId (_id : Id8) (s : State) : Host.Outcome State Fault Refusal :=
  .next (s.fail .notARequest)

/-- RespGpioDir received (encoding R129; routing R73, R136). -/
def execRespGpioDir (_pin _dir : Byte) (s : State) : Host.Outcome State Fault Refusal :=
  .next (s.fail .notARequest)

/-- RespGpioValue received (encoding R130; routing R73, R136). -/
def execRespGpioValue (_pin _value : Byte) (s : State) : Host.Outcome State Fault Refusal :=
  .next (s.fail .notARequest)

/-- RespPwmDuty received (encoding R131; routing R73, R136). -/
def execRespPwmDuty (_channel : Byte) (_value : F32) (s : State) :
    Host.Outcome State Fault Refusal :=
  .next (s.fail .notARequest)

/-- RespPwmFreq received (encoding R132; routing R73, R136). -/
def execRespPwmFreq (_channel : Byte) (_value : F32) (s : State) :
    Host.Outcome State Fault Refusal :=
  .next (s.fail .notARequest)

end Sys2Proof.Machine
end

