-- ==== Sys2Proof/Machine/Dispatch.lean ====
section
/-! DEFINITION. The meaning of each message received (43_dispatcher.md R136): one arm per row of the
opcode table. -/

namespace Sys2Proof.Machine

def exec (i : Instr) (s : State) : Host.Outcome State Fault Refusal :=
  match i with
  | .ping => Sys2Proof.Machine.execPing s
  | .itfType => Sys2Proof.Machine.execItfType s
  | .version => Sys2Proof.Machine.execVersion s
  | .idGet => Sys2Proof.Machine.execIdGet s
  | .gpioDirSet pin dir => Sys2Proof.Machine.execGpioDirSet pin dir s
  | .gpioDirGet pin => Sys2Proof.Machine.execGpioDirGet pin s
  | .gpioWrite pin value => Sys2Proof.Machine.execGpioWrite pin value s
  | .gpioRead pin => Sys2Proof.Machine.execGpioRead pin s
  | .pwmSetDutyCycle channel value => Sys2Proof.Machine.execPwmSetDutyCycle channel value s
  | .pwmGetDutyCycle channel => Sys2Proof.Machine.execPwmGetDutyCycle channel s
  | .pwmSetFrequency channel value => Sys2Proof.Machine.execPwmSetFrequency channel value s
  | .pwmGetFrequency channel => Sys2Proof.Machine.execPwmGetFrequency channel s
  | .good => Sys2Proof.Machine.execGood s
  | .errGeneric reason => Sys2Proof.Machine.execErrGeneric reason s
  | .errCRC => Sys2Proof.Machine.execErrCRC s
  | .errUnknownCode => Sys2Proof.Machine.execErrUnknownCode s
  | .errInvalidArgs reason => Sys2Proof.Machine.execErrInvalidArgs reason s
  | .errBusy => Sys2Proof.Machine.execErrBusy s
  | .respVersion version => Sys2Proof.Machine.execRespVersion version s
  | .respItfType tag => Sys2Proof.Machine.execRespItfType tag s
  | .respId id => Sys2Proof.Machine.execRespId id s
  | .respGpioDir pin dir => Sys2Proof.Machine.execRespGpioDir pin dir s
  | .respGpioValue pin value => Sys2Proof.Machine.execRespGpioValue pin value s
  | .respPwmDuty channel value => Sys2Proof.Machine.execRespPwmDuty channel value s
  | .respPwmFreq channel value => Sys2Proof.Machine.execRespPwmFreq channel value s

end Sys2Proof.Machine
end

