-- ==== Sys2Proof/Machine/Terms.lean ====
section
/-! DEFINITION. The values and terms of a command table's handler (00_scope.md R12). Their form is a
DESIGN CHOICE, and where nothing gives a value it is free (log entry 4). -/

namespace Sys2Proof

/-! ## Values -/

/-- A payload field as a value. -/
def Val.ofField : FieldVal → Val
  | .u8 v => .num v.toNat
  | .u16 v => .num v.toNat
  | .u32 v => .num v.toNat
  | .f32 v => .num v.toNat
  | .bytes v => .bytes v

/-- A port's answer as a value. -/
def Val.ofAnswer : ResTy → PortVal → Val
  | .none, _ => .bytes []
  | .bool, v => .bool (v.num.getLsbD 0)
  | .u8, v => .num v.num.toNat
  | .u16, v => .num v.num.toNat
  | .u32, v => .num v.num.toNat
  | .f32, v => .num v.num.toNat
  | .bytes _, v => .bytes v.data

/-- The record `Q` as values, in its order (44_frequency_quantizer.md R159). -/
def Val.ofQuant (q : Quant) : List Val :=
  [.num q.periodWanted, .num q.achievedPeriod, .num q.top, .bool q.pc, .num q.divInt, .num q.divFrac,
    .num q.iterationsUsed, .num q.achievedFrequency]

/-- The value at a place. -/
def valAt (env : List Val) (a : Nat) : Val :=
  match env[a]? with
  | some v => v
  | none => Config.freeVal a env

/-- A value as a number; a truth value counts as 1 or 0 (R158: `(phase_correct+1)`). -/
def Val.asRat : Val → Rat
  | .num q => q
  | .bool b => if b then 1 else 0
  | .bytes v => Config.freeRat (.bytes v)

/-- A value as a natural number. -/
def Val.asNat (v : Val) : Nat :=
  let q := v.asRat
  if q.den = 1 ∧ 0 ≤ q.num then q.num.toNat else Config.freeNat v

/-- A value as a truth value. -/
def Val.asBool : Val → Bool
  | .bool b => b
  | .num q => Config.freeBool (.num q)
  | .bytes v => Config.freeBool (.bytes v)

/-- A value as a byte string. -/
def Val.asBytes : Val → Bytes
  | .bytes v => v
  | .num q => Config.freeBytes (.num q)
  | .bool b => Config.freeBytes (.bool b)

/-- A value in a field of a call or a response: the low bits of a number; a truth value as 1 or 0, which
is how a table's call passes a bool argument (DESIGN CHOICE, log entry 4); exactly `n` bytes for a
vector, those that are missing free; at most 60 bytes of a text (R134), not checked for UTF-8 (DESIGN
CHOICE, log entry 9). -/
def Val.toField (v : Val) : FieldTy → FieldVal
  | .u8 => .u8 (BitVec.ofNat 8 v.asNat)
  | .u16 => .u16 (BitVec.ofNat 16 v.asNat)
  | .u32 => .u32 (BitVec.ofNat 32 v.asNat)
  | .f32 => .f32 (BitVec.ofNat 32 v.asNat)
  | .vec n =>
    .bytes (v.asBytes.take n ++
      List.replicate (n - v.asBytes.length) (BitVec.ofNat 8 (Config.freeNat v)))
  | .text => .bytes (v.asBytes.take Config.maxWirePayload)

/-! ## Terms -/

/-- An operation on natural numbers (R15, R18). -/
def NatOp.eval (x y : Nat) : NatOp → Nat
  | .add => x + y
  | .sub => if y ≤ x then x - y else Config.freeNat (.num (x - y))
  | .mul => x * y
  | .div => if y = 0 then Config.freeNat (.num x) else x / y
  | .mod => if y = 0 then Config.freeNat (.num x) else x % y
  | .and => x &&& y
  | .or => x ||| y
  | .xor => x ^^^ y
  | .shl => x <<< y
  | .shr => x >>> y

/-- An operation on rationals (R18). -/
def RatOp.eval (x y : Rat) : RatOp → Rat
  | .add => x + y
  | .sub => x - y
  | .mul => x * y
  | .div => if y = 0 then Config.freeRat (.num x) else x / y

/-- A comparison. -/
def CmpOp.eval (v w : Val) : CmpOp → Bool
  | .eq =>
    match v, w with
    | .bytes x, .bytes y => x == y
    | _, _ => v.asRat == w.asRat
  | .lt => decide (v.asRat < w.asRat)
  | .le => decide (v.asRat ≤ w.asRat)

/-- Whether registers lie in the ranges of 44_frequency_quantizer.md R158. -/
def registersInRange (top di df : Nat) : Bool :=
  decide (top ≤ 65535 ∧ 1 ≤ di ∧ di ≤ 255 ∧ df ≤ 15)

/-- The value of a term, of the values so far; `fsys` is `CFG.FSYS`. -/
def Term.eval (fsys : Nat) (env : List Val) : Term → Val
  | .const v => v
  | .natOp o a b => .num (o.eval (valAt env a).asNat (valAt env b).asNat)
  | .ratOp o a b => .num (o.eval (valAt env a).asRat (valAt env b).asRat)
  | .floor a => .num (valAt env a).asRat.floor
  | .clamp a lo hi => .num (min (max (valAt env a).asRat (valAt env lo).asRat) (valAt env hi).asRat)
  | .abs a => .num (ratAbs (valAt env a).asRat)
  | .compare o a b => .bool (o.eval (valAt env a) (valAt env b))
  | .not a => .bool (!(valAt env a).asBool)
  | .and a b => .bool ((valAt env a).asBool && (valAt env b).asBool)
  | .or a b => .bool ((valAt env a).asBool || (valAt env b).asBool)
  | .f32Finite a =>
    match Sys2Proof.f32Value (BitVec.ofNat 32 (valAt env a).asNat) with
    | .fin _ => .bool true
    | .nan => .bool false
    | .inf _ => .bool false
  | .f32Value a =>
    match Sys2Proof.f32Value (BitVec.ofNat 32 (valAt env a).asNat) with
    | .fin q => .num q
    | .nan => .num (Config.freeRat (valAt env a))
    | .inf _ => .num (Config.freeRat (valAt env a))
  | .f32Round a =>
    if 0 < (valAt env a).asRat then .num (rne32 (valAt env a).asRat).toNat
    else .num (Config.freeNat (valAt env a))
  | .pwmPeriod top pc di df =>
    let t := (valAt env top).asNat
    let i := (valAt env di).asNat
    let d := (valAt env df).asNat
    if registersInRange t i d then .num (Sys2Proof.pwmPeriod t (valAt env pc).asBool i d)
    else .num (Config.freeRat (valAt env di))
  | .pwmFrequency top pc di df =>
    let t := (valAt env top).asNat
    let i := (valAt env di).asNat
    let d := (valAt env df).asNat
    if registersInRange t i d then .num (Sys2Proof.pwmFrequency fsys t (valAt env pc).asBool i d)
    else .num (Config.freeRat (valAt env di))
  | .length a => .num (valAt env a).asBytes.length
  | .byteAt a i =>
    match (valAt env a).asBytes[(valAt env i).asNat]? with
    | some b => .num b.toNat
    | none => .num (Config.freeNat (valAt env a))
  | .slice a i n =>
    let v := (valAt env a).asBytes
    if (valAt env i).asNat + (valAt env n).asNat ≤ v.length then
      .bytes (bufRead v (valAt env i).asNat (valAt env n).asNat)
    else .bytes (Config.freeBytes (valAt env a))
  | .append a b => .bytes ((valAt env a).asBytes ++ (valAt env b).asBytes)
  | .be16 a => .bytes (Sys2Proof.be16 (BitVec.ofNat 16 (valAt env a).asNat))
  | .be32 a => .bytes (Sys2Proof.be32 (BitVec.ofNat 32 (valAt env a).asNat))
  | .crc16 a => .num (Sys2Proof.crc16 (valAt env a).asBytes).toNat

end Sys2Proof
end

