-- ==== Sys2Proof/Machine/Commands.lean ====
section
/-! DEFINITION. The UART and I2C command tables (00_scope.md R12, 43_dispatcher.md R151): requests and
responses of rows and tables read and written (42_command_model.md R106, R107), and what a table's
handler does. Its form is a DESIGN CHOICE (log entry 4). -/

namespace Sys2Proof

/-! ## Messages of rows and tables -/

/-- The command table of an interface; GPIO and PWM have none. -/
def cmdTable (c : Cfg) : Itf → CmdTable
  | .gpio => Config.emptyTable
  | .pwm => Config.emptyTable
  | .uart => c.uartCmds
  | .i2c => c.i2cCmds

/-- A Request or Response value (R106): a row of the opcode table, or an entry of a command table with
its payload fields. -/
inductive Message where
  | row (i : Instr)
  | request (e : RequestEntry) (fields : List FieldVal)
  | response (e : ResponseEntry) (fields : List FieldVal)
  deriving DecidableEq, Repr

/-- `to_frame` (R69). -/
def Message.toFrame : Message → Frame
  | .row i => i.toFrame
  | .request e fields => ⟨e.opcode, fields.flatMap FieldVal.toBytes⟩
  | .response e fields => ⟨e.opcode, fields.flatMap FieldVal.toBytes⟩

/-- Whether field values fill a layout (R62). -/
def fillsLayout : List FieldVal → List FieldTy → Bool
  | [], [] => true
  | v :: vs, t :: ts => v.hasTy t && fillsLayout vs ts
  | _, _ => false

/-- The failures of `Request_I.from_frame` (R107). -/
inductive RequestErr where
  | notForThisInterface
  | invalidArgument
  deriving DecidableEq, Repr

/-- The failures of `Response.from_frame` on the host's side (R107). -/
inductive ResponseErr where
  | notAResponse
  | invalidArgument
  deriving DecidableEq, Repr

/-- The request of a command table that a frame carries (R107). -/
def tableRequest (t : CmdTable) (f : Frame) : Except RequestErr (RequestEntry × List FieldVal) :=
  match t.requests.find? fun e => e.opcode == f.opcode with
  | none => .error .notForThisInterface
  | some e =>
    match (ArgParser.new f.payload).consumeLayout e.layout with
    | none => .error .invalidArgument
    | some fields => .ok (e, fields)

/-- The response of a command table that a frame carries (R107). -/
def tableResponse (t : CmdTable) (f : Frame) : Except ResponseErr (ResponseEntry × List FieldVal) :=
  match t.responses.find? fun e => e.opcode == f.opcode with
  | none => .error .notAResponse
  | some e =>
    match (ArgParser.new f.payload).consumeLayout e.layout with
    | none => .error .invalidArgument
    | some fields => .ok (e, fields)

/-- `Request_I.from_frame` (R107): the rows of the set, and for an interface its command table. -/
def requestFromFrame (c : Cfg) (set : RequestSet) (f : Frame) : Except RequestErr Message :=
  match Op.ofCode f.opcode with
  | some o =>
    if o.requestSet = some set then
      match o.decodeArgs (ArgParser.new f.payload) with
      | none => .error .invalidArgument
      | some i => .ok (.row i)
    else .error .notForThisInterface
  | none =>
    match set with
    | .generic => .error .notForThisInterface
    | .interface i => (tableRequest (cmdTable c i) f).map fun r => .request r.1 r.2

/-- `Response.from_frame` of a host that talks to a build of interface `i` (R107): the responses every
interface shares (R106), those of `i`, and those of its command table. -/
def responseFromFrame (c : Cfg) (i : Itf) (f : Frame) : Except ResponseErr Message :=
  match Op.ofCode f.opcode with
  | some o =>
    if o.responseSet = some .generic ∨ o.responseSet = some (.interface i) then
      match o.decodeArgs (ArgParser.new f.payload) with
      | none => .error .invalidArgument
      | some r => .ok (.row r)
    else .error .notAResponse
  | none => (tableResponse (cmdTable c i) f).map fun r => .response r.1 r.2

/-! ## Handlers -/

/-- The fields of a call or of a response. -/
def fieldsOf (env : List Val) (fields : List (FieldTy × Nat)) : List FieldVal :=
  fields.map fun x => (valAt env x.2).toField x.1

/-- The frame of a reply (R137, R151). -/
def Reply.frame (r : Reasons) (env : List Val) : Reply → Frame
  | .good => Instr.good.toFrame
  | .value opcode fields => ⟨opcode, (fieldsOf env fields).flatMap FieldVal.toBytes⟩
  | .errGeneric key => (Instr.errGeneric (r.text key)).toFrame
  | .errInvalidArgs key => (Instr.errInvalidArgs (r.text key)).toFrame

end Sys2Proof

namespace Sys2Proof.Machine

/-- A handler of a table run on the values so far (R137, R151): its calls in order, HW_FAIL at the first
`Err`, and one response. -/
def State.runHandler (itf : Itf) : Handler → List Val → State → State
  | .reply r, env, s => s.sendFrame (r.frame s.cfg.reason env)
  | .bind t rest, env, s => s.runHandler itf rest (env ++ [t.eval s.cfg.fsys env])
  | .call op args res rest, env, s =>
    let c : PortCall := .table itf op (fieldsOf env args) res
    match s.portAnswer c with
    | .err => (s.afterPort c).fail .hwFailure
    | .ok v => (s.afterPort c).runHandler itf rest (env ++ [Val.ofAnswer res v])
  | .branch cond yes no, env, s =>
    if (valAt env cond).asBool then s.runHandler itf yes env else s.runHandler itf no env
  | .quantize target rest, env, s =>
    match frequencyTarget (BitVec.ofNat 32 (valAt env target).asNat) with
    | none => s.fail .badFrequency
    | some f =>
      let q := quantize s.cfg.fsys f
      (s.emitDiag (quantizerReport q)).runHandler itf rest (env ++ Val.ofQuant q)

/-- A request of a table, its fields decoded (R151). -/
def State.runEntry (itf : Itf) (e : RequestEntry) (fields : List FieldVal) (s : State) : State :=
  s.runHandler itf e.handler (fields.map Val.ofField)

end Sys2Proof.Machine
end

