-- ==== Sys2Proof/Machine/Routing.lean ====
section
/-! DEFINITION. Known opcodes and categories under a configuration (30_encoding.md R59 to R61), and what
`process_frame` does with a frame that carries no message of the opcode table (43_dispatcher.md R136,
R151). -/

namespace Sys2Proof.Machine

/-- Whether a command table defines an opcode. -/
def tableDefines (t : CmdTable) (op : U16) : Bool :=
  t.requests.any (fun e => e.opcode == op) || t.responses.any (fun e => e.opcode == op)

/-- `KNOWN` (R59): the rows of the opcode table and the opcodes of both command tables, whatever
interface is installed. -/
def knownOpcode (c : Cfg) (op : U16) : Bool :=
  concreteKnown op || tableDefines c.uartCmds op || tableDefines c.i2cCmds op

/-- `CodeCategory` (R20, R61). -/
inductive Category where
  | requestGeneric
  | requestPerInterface (i : Itf)
  | statusGeneric
  | responseGeneric
  | responsePerInterface (i : Itf)
  deriving DecidableEq, Repr

/-- The high byte of the I2C response block, if the I2C table defines responses (R60, R61). -/
def i2cResponseBlock (c : Cfg) : Option Byte :=
  c.i2cCmds.responses.head?.map fun e => highByte e.opcode

/-- `category(op)` (R61), by the high byte; `none` is that rule's "unreachable". -/
def category (c : Cfg) (op : U16) : Option Category :=
  match (highByte op).toNat with
  | 0x00 => some .requestGeneric
  | 0x01 => some (.requestPerInterface .gpio)
  | 0x02 => some (.requestPerInterface .pwm)
  | 0x10 => some (.requestPerInterface .uart)
  | 0x3B => some (.requestPerInterface .i2c)
  | 0xFF => some .statusGeneric
  | 0xFE => some .responseGeneric
  | 0xFD => some (.responsePerInterface .gpio)
  | 0xFC => some (.responsePerInterface .pwm)
  | 0xEF => some (.responsePerInterface .uart)
  | _ =>
    if i2cResponseBlock c = some (highByte op) then some (.responsePerInterface .i2c) else none

/-! ## Frames without a message of the opcode table -/

/-- `process_frame` for an opcode that is no row of the opcode table (R136, R151). -/
def State.runTable (f : Frame) (s : State) : State :=
  match category s.cfg f.opcode with
  | some (.requestPerInterface i) =>
    if i ≠ s.cfg.itf then s.fail .notThisInterface
    else
      match tableRequest (cmdTable s.cfg i) f with
      | .error .notForThisInterface => s.fail .notThisInterface
      | .error .invalidArgument => s.fail .invalidArgument
      | .ok (e, fields) => s.runEntry i e fields
  | some .requestGeneric => s.fail .notThisInterface
  | _ => s.fail .notARequest

/-- `process_frame` for a row of the table whose argument layout does not decode (R136, R181: the
category and the installed interface are checked before the layout). -/
def State.refuseArguments (op : U16) (s : State) : State :=
  match category s.cfg op with
  | some .requestGeneric => s.fail .invalidArgument
  | some (.requestPerInterface i) =>
    if i ≠ s.cfg.itf then s.fail .notThisInterface else s.fail .invalidArgument
  | _ => s.fail .notARequest

end Sys2Proof.Machine
end

