-- ==== Sys2Proof/Machine/Loop.lean ====
section
/-! DEFINITION. Frame handling and the control loop (43_dispatcher.md R136, R152 to R155). One step is
one round of the loop of R154 (log entry 7): at most one frame is completed and answered in it. -/

namespace Sys2Proof.Machine

/-- `process_frame` with its response sent (R136, R152). A frame that carries a message of the table
runs that message's meaning. -/
def processFrame (f : Frame) (s : State) : Host.Outcome State Fault Refusal :=
  match f.message with
  | .ok i => exec i s
  | .error (.invalidArgument _) => .next (s.refuseArguments f.opcode)
  | .error (.noRow _) => .next (s.runTable f)

/-- `handle_frame` (R152). -/
def handleFrame (raw : Bytes) (s : State) : Host.Outcome State Fault Refusal :=
  match Frame.fromBytes (knownOpcode s.cfg) raw with
  | .error e => .next (s.fail (.frame e))
  | .ok f => processFrame f s

/-- The RX bytes of the current chunk that are not yet fed. -/
def State.pending (s : State) : Bytes := s.chunk.drop s.off

/-- One round of the control loop on the rest of the chunk (R154, R155). -/
def feedRound (s : State) : Host.Outcome State Fault Refusal :=
  match decFeed Config.decCap s.dec s.pending with
  | (.ok n false, d) => .next ((s.setDec d).advance n)
  | (.ok n true, d) => mapNext (fun t => t.decReset.advance n) (handleFrame d.acc (s.setDec d))
  | (.err kind k, d) => .next (((s.setDec d).transportFail kind k).advance (k + 1))

/-- One step of the control loop: a round on the chunk in progress, else the next chunk is taken (R30,
R154), else the block waits (R193, R194). -/
def loopStep (s : State) : Host.Outcome State Fault Refusal :=
  match s.pending with
  | _ :: _ => feedRound s
  | [] =>
    match s.rx with
    | [] => .next s
    | c :: rest => .next (s.takeChunk c rest)

/-- One step of the agent: a step of the control loop, or a reset that waits, taken before the loop's
step or inside it before the response leaves (R191). -/
def controlStep (s : State) : Host.Outcome State Fault Refusal :=
  match s.resetReq with
  | .none => loopStep s
  | .atOnce => .next s.takeReset
  | .beforeSend => mapNext (fun t => (t.loseResponse s.out).takeReset) (loopStep s)

end Sys2Proof.Machine
end

