-- ==== Sys2Proof/Machine/Step.lean ====
section
/-! DEFINITION. The step of the machine, and where it finds its next message. -/

namespace Sys2Proof.Machine

/-- One step: one round of the control loop (43_dispatcher.md R154). -/
def step (s : State) : Host.Outcome State Fault Refusal := controlStep s

/-- `s` with a table word as the next frame to run: its wire message stands as the chunk in progress,
the decoder is empty, and no reset is asked for (log entry 10). -/
def State.withFetchWord (s : State) (nbits w : Nat) : State :=
  { s with
    chunk := wire (tableWordRaw nbits w)
    off := 0
    dec := Dec.empty
    resetReq := .none }

end Sys2Proof.Machine
end

