-- ==== Sys2Proof/Machine/Legal.lean ====
section
/-! DEFINITION. The legal values of the configuration registers (10_state.md R22), with what R12, R60
and R151 ask of a command table. -/

namespace Sys2Proof.Machine

/-- Each reason text has 0 to 60 bytes (R13, R22). That it need not be UTF-8, and is sent as it is, is a
DESIGN CHOICE: R62 asks for UTF-8 on encode and names no failure (log entry 9). -/
def reasonsLegal (r : Reasons) : Bool :=
  [r.tooShort, r.invalidArgs, r.badFrequency, r.hwFailure, r.hwValueRange].all
    fun t => decide (t.length ≤ Config.maxWirePayload)

/-- A `text` field stands only at the end of a layout, since it takes every remaining byte (R62). -/
def layoutLegal : List FieldTy → Bool
  | [] => true
  | [_] => true
  | t :: rest => t != .text && layoutLegal rest

/-- A reply is a response with at most 60 payload bytes (R134), a value response one of the table
(R151). A text it carries need not be UTF-8 (DESIGN CHOICE, log entry 9). -/
def replyLegal (t : CmdTable) : Reply → Bool
  | .good => true
  | .value opcode fields =>
    t.responses.any (fun r => r.opcode == opcode && r.layout == fields.map Prod.fst) &&
      decide ((fields.map fun x => x.1.maxBytes).sum ≤ Config.maxWirePayload)
  | .errGeneric _ => true
  | .errInvalidArgs _ => true

/-- Every reply a handler can end with is legal. -/
def handlerLegal (t : CmdTable) : Handler → Bool
  | .reply r => replyLegal t r
  | .bind _ rest => handlerLegal t rest
  | .call _ _ _ rest => handlerLegal t rest
  | .branch _ yes no => handlerLegal t yes && handlerLegal t no
  | .quantize _ rest => handlerLegal t rest

/-- What R12, R60 and R151 ask of a table (DESIGN CHOICE in its detail, log entry 4, unsafe) whose
requests have high byte `req` and whose responses have a high byte allowed by `resp`. -/
def tableLegal (req : Byte) (resp : Byte → Bool) (t : CmdTable) : Bool :=
  t.requests.all (fun e =>
      highByte e.opcode == req && layoutLegal e.layout && handlerLegal t e.handler) &&
    t.responses.all (fun r => resp (highByte r.opcode) && layoutLegal r.layout) &&
    decide ((t.requests.map (·.opcode)).Nodup) &&
    decide ((t.responses.map (·.opcode)).Nodup)

/-- The high bytes of the gaps of the opcode namespace (R60). -/
def gapByte (h : Byte) : Bool :=
  decide ((0x03 ≤ h.toNat ∧ h.toNat ≤ 0x0F) ∨ (0x11 ≤ h.toNat ∧ h.toNat ≤ 0x3A) ∨
    (0x3C ≤ h.toNat ∧ h.toNat ≤ 0xEE) ∨ (0xF0 ≤ h.toNat ∧ h.toNat ≤ 0xFB))

/-- The responses of the I2C table lie in one 0x100 block inside a gap (R60). -/
def i2cBlockLegal (t : CmdTable) : Bool :=
  match t.responses with
  | [] => true
  | r :: _ => t.responses.all fun x => highByte x.opcode == highByte r.opcode

/-- The legal values of the CFG inputs and registers (R22). -/
def cfgLegal (p : CfgParams) : Bool :=
  textOk p.version && decide (1 ≤ p.fsys) && reasonsLegal p.reason &&
    tableLegal 0x10 (fun h => h == 0xEF) p.uartCmds &&
    tableLegal 0x3B gapByte p.i2cCmds && i2cBlockLegal p.i2cCmds

end Sys2Proof.Machine
end

