-- ==== Sys2Proof/Safety.lean ====
section
/-! DEFINITION. The terms the statements use: the invariant of the machine, an idle machine, and the
state in which a message has been answered. -/

namespace Sys2Proof.Machine

/-- What holds of the block after every step: the accumulator within its capacity (20_memory.md R38,
R49), no encoder byte from one exchange to the next (10_state.md R24), the cursor inside its chunk
(R25), and legal configuration registers and inputs (R22). -/
structure State.Inv (s : State) : Prop where
  acc : s.dec.acc.length ≤ Config.decCap
  enc : s.enc = []
  cursor : (s.chunk = [] ∧ s.off = 0) ∨ s.off < s.chunk.length
  cfg : cfgLegal s.cfg.toCfgParams = true
  cfgIn : cfgLegal s.cfgIn = true

/-- The block waits for the host: no chunk in progress, none delivered, no reset asked for. -/
def State.Idle (s : State) : Prop :=
  s.chunk = [] ∧ s.off = 0 ∧ s.rx = [] ∧ s.resetReq = .none

/-- `s` after message `m` has left on TX, with the encoder reset behind it (43_dispatcher.md R156). -/
def State.answered (s : State) (m : Instr) : State :=
  { s with enc := [], out := s.out ++ [.tx (wire (encode m))] }

/-- `s` after a frame has left on TX. -/
def State.answeredFrame (s : State) (f : Frame) : State :=
  { s with enc := [], out := s.out ++ [.tx (wire f.toBytes)] }

/-- A DIAG event without the offset that depends on how the host cuts its chunks (10_state.md R30,
R34). -/
def DiagEvent.forgetOffset : DiagEvent → DiagEvent
  | .transportError kind _ => .transportError kind 0
  | .frameError e => .frameError e
  | .txDropped k => .txDropped k
  | .quantizerReport pw ap top n af df di => .quantizerReport pw ap top n af df di

/-- An output event without that offset. -/
def OutEvent.forgetOffset : OutEvent → OutEvent
  | .tx m => .tx m
  | .port c => .port c
  | .diag e => .diag e.forgetOffset

/-- `handle(r)` for a decoded request (43_dispatcher.md R136); a response is no request and is never
asked. -/
def handleRequest (itf : Itf) (m : Message) (s : State) : Host.Outcome State Fault Refusal :=
  match m with
  | .row i => exec i s
  | .request e fields => .next (s.runEntry itf e fields)
  | .response _ _ => .next (s.fail .notARequest)

/-- `process_frame` in the shape of 43_dispatcher.md R136: category, then installed interface, then the
request decoder, then the handler. -/
def routeByCategory (f : Frame) (s : State) : Host.Outcome State Fault Refusal :=
  match category s.cfg f.opcode with
  | some .requestGeneric =>
    match requestFromFrame s.cfg .generic f with
    | .ok m => handleRequest s.cfg.itf m s
    | .error .invalidArgument => .next (s.fail .invalidArgument)
    | .error .notForThisInterface => .next (s.fail .notThisInterface)
  | some (.requestPerInterface i) =>
    if i ≠ s.cfg.itf then .next (s.fail .notThisInterface)
    else
      match requestFromFrame s.cfg (.interface i) f with
      | .ok m => handleRequest i m s
      | .error .invalidArgument => .next (s.fail .invalidArgument)
      | .error .notForThisInterface => .next (s.fail .notThisInterface)
  | _ => .next (s.fail .notARequest)

/-- A raw frame with one bit flipped: bit `b` of byte `k` (41_frame_protocol.md R98). -/
def flipBit (raw : Bytes) (k b : Nat) : Bytes := raw.modify k fun x => x ^^^ BitVec.twoPow 8 b

end Sys2Proof.Machine
end

