-- ==== Sys2Proof/Certificates/Slice0/Obligations.lean ====
section
/-! DEFINITION. The statements for the provers. -/

open Sys2Proof Sys2Proof.Machine

/-! ## Checksum, frames and messages -/

/-- The check values of 41_frame_protocol.md R93, which that rule marks as derived from R91 and as
general knowledge. -/
def Obligations.CrcCheckValues : Prop :=
  crc16 [0x31, 0x32, 0x33, 0x34, 0x35, 0x36, 0x37, 0x38, 0x39] = 0x29B1 ∧
    crc16 [0x00, 0x00] = 0x1D0F ∧ crc16 [0xFF, 0xFF] = 0x0000 ∧
    encode .good = [0xFF, 0xFF, 0x00, 0x00]

/-- Raw frames written out in 95_test_vectors.md (V51, V55, V61, V65, V71), one of each family, are
read as the messages they stand for. -/
def Obligations.WrittenFramesDecode : Prop :=
  decode [0x00, 0x00, 0x1D, 0x0F] = .ok .ping ∧
    decode [0x01, 0x00, 0x02, 0x02, 0xB4, 0x54] = .ok (.gpioDirSet 2 2) ∧
    decode [0x02, 0x02, 0x00, 0x44, 0x7A, 0x00, 0x00, 0xA1, 0xC9] =
      .ok (.pwmSetFrequency 0 0x447A0000) ∧
    decode [0xFF, 0xFE, 0x68, 0x61, 0x72, 0x64, 0x77, 0x61, 0x72, 0x65, 0x20, 0x65, 0x72, 0x72,
      0x6F, 0x72, 0x8A, 0xD3] = .ok (.errGeneric Config.defaultReasons.hwFailure) ∧
    decode [0xFD, 0xFE, 0x02, 0x01, 0xAC, 0x1B] = .ok (.respGpioValue 2 1)

/-- Every well-formed message is read back from its raw frame: no bit of its encoding is dropped (an
inference the spec marks as its own: 42_command_model.md R133, 41_frame_protocol.md R97). -/
def Obligations.EncodedMessageDecodes : Prop :=
  ∀ i : Instr, i.wellFormed = true → decode (encode i) = .ok i

/-- An inference the spec marks as its own, 42_command_model.md R133: the frame of a message carries
that message; a frame is the frame of the message it carries only if no payload byte is left over. -/
def Obligations.MessageFrameRoundTrip : Prop :=
  (∀ i : Instr, i.toFrame.message = .ok i) ∧
    ∀ (f : Frame) (i : Instr), f.message = .ok i →
      (i.toFrame = f ↔ f.payload.length ≤ i.payload.length)

/-- An inference the spec marks as its own, 41_frame_protocol.md R97: a known frame survives
serialisation and parsing for every payload up to its capacity, and reaches the parser through the
decoder for payloads up to 60 bytes. -/
def Obligations.FrameSurvivesSerialisation : Prop :=
  ∀ (known : U16 → Bool) (f : Frame), known f.opcode = true →
    f.payload.length ≤ Config.payloadCap →
      Frame.fromBytes known f.toBytes = .ok f ∧
        (f.payload.length ≤ 60 →
          decFeed Config.decCap Dec.empty (wire f.toBytes) =
            (.ok (wire f.toBytes).length true, ⟨f.toBytes, false⟩))

/-- An inference the spec marks as its own, 41_frame_protocol.md R98: any one bit of a raw frame
flipped, in the opcode, the payload or the checksum, is a checksum mismatch. -/
def Obligations.SingleBitFlipIsCaught : Prop :=
  ∀ (known : U16 → Bool) (f : Frame) (k b : Nat), k < f.toBytes.length → b < 8 →
    ∃ expected actual,
      Frame.fromBytes known (flipBit f.toBytes k b) = .error (.checksumMismatch expected actual)

/-- 30_encoding.md R71: a text field takes every remaining byte, UTF-8 or not; in every other layout
the bytes after the last field are ignored. -/
def Obligations.LeftoverPayloadIsIgnored : Prop :=
  (∀ payload : Bytes,
    Op.errGeneric.decodeArgs (ArgParser.new payload) = some (.errGeneric payload) ∧
      Op.errInvalidArgs.decodeArgs (ArgParser.new payload) = some (.errInvalidArgs payload) ∧
      Op.respVersion.decodeArgs (ArgParser.new payload) = some (.respVersion payload)) ∧
  ∀ (o : Op) (payload extra : Bytes) (i : Instr), FieldTy.text ∉ o.layout →
    o.decodeArgs (ArgParser.new payload) = some i →
      o.decodeArgs (ArgParser.new (payload ++ extra)) = some i

/-- The ArgParser's reads (41_frame_protocol.md R100, R101, R102, R104): each reads at the cursor and
advances by its width, big-endian, or answers nothing when too few bytes remain. -/
def Obligations.ArgParserReadsBigEndian : Prop :=
  ∀ p : ArgParser,
    p.consumeU8 =
      (if p.pos + 1 ≤ p.buf.length then some (p.buf.getD p.pos 0, ⟨p.buf, p.pos + 1⟩)
       else none) ∧
    p.consumeU16 =
      (if p.pos + 2 ≤ p.buf.length then
        some (u16Of (p.buf.getD p.pos 0) (p.buf.getD (p.pos + 1) 0), ⟨p.buf, p.pos + 2⟩)
       else none) ∧
    p.consumeU32 =
      (if p.pos + 4 ≤ p.buf.length then
        some (u32Of (p.buf.getD p.pos 0) (p.buf.getD (p.pos + 1) 0) (p.buf.getD (p.pos + 2) 0)
          (p.buf.getD (p.pos + 3) 0), ⟨p.buf, p.pos + 4⟩)
       else none) ∧
    (∀ n, p.consumeVector n =
      (if p.pos + n ≤ p.buf.length then
        some ((p.buf.drop p.pos).take n, ⟨p.buf, p.pos + n⟩)
       else none)) ∧
    (∀ a b : Byte, (u16Of a b).toNat = a.toNat * 256 + b.toNat) ∧
    ∀ a b c d : Byte,
      (u32Of a b c d).toNat = ((a.toNat * 256 + b.toNat) * 256 + c.toNat) * 256 + d.toNat

/-- The opcode table: 25 distinct opcodes, known in every build; with empty command tables no other
opcode is known, so every opcode of the UART and I2C namespaces is unknown (30_encoding.md R59, R72;
00_scope.md R12). -/
def Obligations.KnownOpcodes : Prop :=
  Op.all.length = 25 ∧ (Op.all.map Op.code).Nodup ∧
    (∀ (c : Cfg) (o : Op), knownOpcode c o.code = true) ∧
    ∀ (c : Cfg) (op : U16), c.uartCmds = Config.emptyTable → c.i2cCmds = Config.emptyTable →
      (knownOpcode c op = true ↔ op ∈ Op.all.map Op.code) ∧
      (highByte op ∈ [0x10, 0x3B, 0xEF] → knownOpcode c op = false)

/-- The category of every known opcode under a legal configuration: there is one, it is a request
category exactly for the requests, and it names the interface of the request (30_encoding.md R61). -/
def Obligations.EveryKnownOpcodeHasCategory : Prop :=
  ∀ (c : Cfg) (op : U16), cfgLegal c.toCfgParams = true → knownOpcode c op = true →
    (category c op).isSome = true ∧
    ((∃ o, Op.ofCode op = some o ∧ o.requestSet = some .generic) ↔
      category c op = some .requestGeneric) ∧
    ∀ i : Itf,
      ((∃ o, Op.ofCode op = some o ∧ o.requestSet = some (.interface i)) ∨
        (∃ e ∈ (cmdTable c i).requests, e.opcode = op)) ↔
      category c op = some (.requestPerInterface i)

/-- The request decoder of a set takes the requests of that set and no other row; the response decoder
of a host takes the generic responses, status codes and those of its interface and no other row; every
row is a request or a response and not both (42_command_model.md R106, R107). Under a legal
configuration the requests and responses of a command table are read back by the decoders of its
interface, every field as it was. The form of a table is the model's choice: log entry 4. -/
def Obligations.DecodersTakeOnlyTheirOwnSet : Prop :=
  (∀ (c : Cfg) (i : Instr),
    (∀ set : RequestSet, requestFromFrame c set i.toFrame =
      if i.op.requestSet = some set then .ok (.row i) else .error .notForThisInterface) ∧
    (∀ itf : Itf, responseFromFrame c itf i.toFrame =
      if i.op.responseSet = some .generic ∨ i.op.responseSet = some (.interface itf) then .ok (.row i)
      else .error .notAResponse) ∧
    (i.op.requestSet = none ↔ i.op.responseSet ≠ none)) ∧
  ∀ (c : Cfg) (itf : Itf) (fields : List FieldVal), cfgLegal c.toCfgParams = true →
    (∀ e ∈ (cmdTable c itf).requests, fillsLayout fields e.layout = true →
      requestFromFrame c (.interface itf) (Message.request e fields).toFrame =
        .ok (.request e fields)) ∧
    ∀ e ∈ (cmdTable c itf).responses, fillsLayout fields e.layout = true →
      responseFromFrame c itf (Message.response e fields).toFrame = .ok (.response e fields)

/-! ## Transport codec -/

/-- An inference the spec marks as its own, 40_transport_codec.md R86: what the encoder returns when
it does not fail is the wire form. -/
def Obligations.EncoderProducesWireForm : Prop :=
  ∀ (cap n m : Nat) (raw buf out : Bytes),
    encFeed cap [] raw = (.ok n, buf) → encFinish cap buf = (.ok m, out) →
      out = raw.flatMap stuff ++ [0xC0] ∧ wire raw = out

/-- An inference the spec marks as its own, 40_transport_codec.md R89: the length of a wire message. -/
def Obligations.StuffedLength : Prop :=
  ∀ raw : Bytes,
    (wire raw).length = raw.length + raw.countP (fun b => b == 0xC0 || b == 0xDB) + 1 ∧
      (wire raw).length ≤ 2 * raw.length + 1

/-- An inference the spec marks as its own, 40_transport_codec.md R87: a reset decoder gives back
every byte string up to its capacity; of a longer one it reports the byte that completes the 65th
decoded byte. -/
def Obligations.SlipRoundTrip : Prop :=
  ∀ raw : Bytes,
    (raw.length ≤ Config.decCap →
      decFeed Config.decCap Dec.empty (wire raw) = (.ok (wire raw).length true, ⟨raw, false⟩)) ∧
    (Config.decCap < raw.length →
      (decFeed Config.decCap Dec.empty (wire raw)).1 =
        .err .bufferFull (((raw.take (Config.decCap + 1)).flatMap stuff).length - 1))

/-- An inference the spec marks as its own, 40_transport_codec.md R88: once the bytes before it have
been taken without an `END` or a failure and leave no escape pending, an escape byte followed by
neither `0xDC` nor `0xDD` is a bad escape at the byte after it. -/
def Obligations.BadEscapeIsRejected : Prop :=
  ∀ (cap : Nat) (d d' : Dec) (before rest : Bytes) (x : Byte),
    decFeed cap d before = (.ok before.length false, d') → d'.esc = false →
      x ≠ 0xDC → x ≠ 0xDD →
        decFeed cap d (before ++ 0xDB :: x :: rest) =
          (.err .badEscape (before.length + 1), ⟨d'.acc, true⟩)

/-- 20_memory.md R49: no buffer is written past its capacity, none wraps or overwrites, and what would
not fit is refused. -/
def Obligations.BuffersKeepTheirCapacity : Prop :=
  (∀ (cap : Nat) (d : Dec) (input : Bytes), d.acc.length ≤ cap →
    (decFeed cap d input).2.acc.length ≤ cap ∧ d.acc <+: (decFeed cap d input).2.acc) ∧
  (∀ (d : Dec) (b v : Byte) (rest : Bytes), byteClass d.esc b = .data v →
    decFeed d.acc.length d (b :: rest) = (.err .bufferFull 0, d)) ∧
  (∀ (cap : Nat) (buf input : Bytes), buf.length ≤ cap →
    (encFeed cap buf input).2.length ≤ cap ∧ buf <+: (encFeed cap buf input).2 ∧
      (encFinish cap buf).2.length ≤ cap ∧ buf <+: (encFinish cap buf).2) ∧
  (∀ (cap : Nat) (buf rest : Bytes) (b : Byte), cap < buf.length + (stuff b).length →
    encFeed cap buf (b :: rest) = (.bufferFull 0, buf)) ∧
  (∀ (known : U16 → Bool) (raw : Bytes) (f : Frame), Frame.fromBytes known raw = .ok f →
    f.payload.length ≤ Config.payloadCap) ∧
  ∀ (known : U16 → Bool) (f : Frame), known f.opcode = true →
    Config.payloadCap < f.payload.length → Frame.fromBytes known f.toBytes = .error .tooShort

/-- A raw frame leaves on TX exactly if its wire form fits the encoder; otherwise it is dropped and
reported, and nothing leaves (43_dispatcher.md R156, 60_exceptions.md R182). -/
def Obligations.OnlyFittingResponsesLeave : Prop :=
  ∀ (s : State) (raw : Bytes),
    ((wire raw).length ≤ Config.encCap →
      s.sendRaw raw = { s with enc := [], out := s.out ++ [.tx (wire raw)] }) ∧
    (Config.encCap < (wire raw).length →
      ∃ k, k ≤ raw.length ∧
        s.sendRaw raw = { s with enc := [], out := s.out ++ [.diag (.txDropped k)] })

/-! ## What each message does -/

/-- Ping, ItfType and Version are answered in every build, with no port call (43_dispatcher.md R139,
R140, R141). -/
def Obligations.GenericRequestsAreAnswered : Prop :=
  ∀ s : State, s.cfg.version.length ≤ 60 →
    exec .ping s = .next (s.answered .good) ∧
    exec .itfType s = .next (s.answered (.respItfType s.cfg.itfTag)) ∧
    exec .version s = .next (s.answered (.respVersion s.cfg.version))

/-- IdGet answers the 8-byte id, which no step without a reset changes (43_dispatcher.md R142). -/
def Obligations.IdGetAnswersDeviceId : Prop :=
  ∀ s : State,
    exec .idGet s = .next (s.answered (.respId s.cfg.deviceId)) ∧
    ∀ t, s.resetReq = .none → step s = .next t → t.cfg.deviceId = s.cfg.deviceId

/-- GpioDirSet makes one `dir_set` call and answers Good or HW_FAIL (43_dispatcher.md R143). -/
def Obligations.GpioDirSetCallsPort : Prop :=
  ∀ (s : State) (pin dir : Byte), s.cfg.itf = .gpio → reasonsLegal s.cfg.reason = true →
    exec (.gpioDirSet pin dir) s = .next
      (match s.portAnswer (.dirSet pin dir) with
      | .ok _ => (s.afterPort (.dirSet pin dir)).answered .good
      | .err => (s.afterPort (.dirSet pin dir)).answered (.errGeneric s.cfg.reason.hwFailure))

/-- GpioDirGet makes one `dir_get` call and answers the port's byte or HW_FAIL (43_dispatcher.md
R144). -/
def Obligations.GpioDirGetCallsPort : Prop :=
  ∀ (s : State) (pin : Byte), s.cfg.itf = .gpio → reasonsLegal s.cfg.reason = true →
    exec (.gpioDirGet pin) s = .next
      (match s.portAnswer (.dirGet pin) with
      | .ok d => (s.afterPort (.dirGet pin)).answered (.respGpioDir pin (d.num.setWidth 8))
      | .err => (s.afterPort (.dirGet pin)).answered (.errGeneric s.cfg.reason.hwFailure))

/-- GpioWrite makes one `pin_write` call and answers Good or HW_FAIL (43_dispatcher.md R145). -/
def Obligations.GpioWriteCallsPort : Prop :=
  ∀ (s : State) (pin value : Byte), s.cfg.itf = .gpio → reasonsLegal s.cfg.reason = true →
    exec (.gpioWrite pin value) s = .next
      (match s.portAnswer (.pinWrite pin value) with
      | .ok _ => (s.afterPort (.pinWrite pin value)).answered .good
      | .err => (s.afterPort (.pinWrite pin value)).answered (.errGeneric s.cfg.reason.hwFailure))

/-- GpioRead makes one `pin_read` call and answers the port's byte or HW_FAIL (43_dispatcher.md R146). -/
def Obligations.GpioReadCallsPort : Prop :=
  ∀ (s : State) (pin : Byte), s.cfg.itf = .gpio → reasonsLegal s.cfg.reason = true →
    exec (.gpioRead pin) s = .next
      (match s.portAnswer (.pinRead pin) with
      | .ok v => (s.afterPort (.pinRead pin)).answered (.respGpioValue pin (v.num.setWidth 8))
      | .err => (s.afterPort (.pinRead pin)).answered (.errGeneric s.cfg.reason.hwFailure))

/-- PwmSetDutyCycle hands the pattern to `set_duty` as it is and answers Good or HW_FAIL
(43_dispatcher.md R147). -/
def Obligations.PwmSetDutyCallsPort : Prop :=
  ∀ (s : State) (channel : Byte) (value : F32), s.cfg.itf = .pwm →
    reasonsLegal s.cfg.reason = true →
    exec (.pwmSetDutyCycle channel value) s = .next
      (match s.portAnswer (.setDuty channel value) with
      | .ok _ => (s.afterPort (.setDuty channel value)).answered .good
      | .err =>
        (s.afterPort (.setDuty channel value)).answered (.errGeneric s.cfg.reason.hwFailure))

/-- PwmGetDutyCycle makes one `get_duty` call and answers the port's pattern unchanged or HW_FAIL
(43_dispatcher.md R148). -/
def Obligations.PwmGetDutyCallsPort : Prop :=
  ∀ (s : State) (channel : Byte), s.cfg.itf = .pwm → reasonsLegal s.cfg.reason = true →
    exec (.pwmGetDutyCycle channel) s = .next
      (match s.portAnswer (.getDuty channel) with
      | .ok v => (s.afterPort (.getDuty channel)).answered (.respPwmDuty channel v.num)
      | .err => (s.afterPort (.getDuty channel)).answered (.errGeneric s.cfg.reason.hwFailure))

/-- PwmSetFrequency (43_dispatcher.md R149): a target that is not a finite positive number is refused
with no run and no call; any other runs the quantizer, reports it, commits its registers in order, and
answers the achieved frequency rounded, or HW_FAIL. -/
def Obligations.PwmSetFrequencyCommits : Prop :=
  ∀ (s : State) (channel : Byte) (value : F32), s.cfg.itf = .pwm →
    reasonsLegal s.cfg.reason = true →
    ((f32Value value = .nan ∨ (∃ neg, f32Value value = .inf neg) ∨
        ∃ f, f32Value value = .fin f ∧ f ≤ 0) →
      exec (.pwmSetFrequency channel value) s =
        .next (s.answered (.errInvalidArgs s.cfg.reason.badFrequency))) ∧
    ∀ (f : Rat) (q : Quant), f32Value value = .fin f → 0 < f → q = quantize s.cfg.fsys f →
      exec (.pwmSetFrequency channel value) s = .next
        (match
          (s.emitDiag (.quantizerReport q.periodWanted q.achievedPeriod q.top q.iterationsUsed
            q.achievedFrequency q.divFrac q.divInt)).portAll
            [.setTop channel (BitVec.ofNat 16 q.top), .setDivInt channel (BitVec.ofNat 8 q.divInt),
              .setDivFrac channel (BitVec.ofNat 8 q.divFrac), .setPhaseCorrect channel q.pc] with
        | (some _, s') => s'.answered (.respPwmFreq channel (rne32 q.achievedFrequency))
        | (none, s') => s'.answered (.errGeneric s.cfg.reason.hwFailure))

/-- PwmGetFrequency (43_dispatcher.md R150): four reads in order; HW_FAIL at the first that fails; a
divider that gives no period is refused; otherwise the frequency of the registers read, rounded. -/
def Obligations.PwmGetFrequencyReadsBack : Prop :=
  ∀ (s s' : State) (channel : Byte) (r : Option (List PortVal)), s.cfg.itf = .pwm →
    reasonsLegal s.cfg.reason = true →
    s.portAll [.getTop channel, .getDivInt channel, .getDivFrac channel,
      .getPhaseCorrect channel] = (r, s') →
    (r = none →
      exec (.pwmGetFrequency channel) s =
        .next (s'.answered (.errGeneric s.cfg.reason.hwFailure))) ∧
    ∀ top di df pc : PortVal, r = some [top, di, df, pc] →
      exec (.pwmGetFrequency channel) s = .next
        (if di.num = 0 ∨ 15 < df.num.toNat then s'.answered (.errGeneric s.cfg.reason.hwValueRange)
         else s'.answered (.respPwmFreq channel
          (rne32 (pwmFrequency s.cfg.fsys top.num.toNat (pc.num.getLsbD 0) di.num.toNat
            df.num.toNat))))

/-- A sequence of port calls is made in order and stops at the first `Err`; only the channel shows it
(43_dispatcher.md R137, 10_state.md R28). A handler of a command table makes calls of its interface only
and none behind an `Err`, which it answers HW_FAIL (R151; the form of a handler is the model's choice:
log entry 4, and so are the fields that answers come from: log entry 6). -/
def Obligations.PortCallsStopAtFirstErr : Prop :=
  (∀ (cs : List PortCall) (s : State),
    (∃ vs : List PortVal, vs.length = cs.length ∧
      s.portAll cs = (some vs,
        { s with
          portTape := s.portTape.drop cs.length
          draws := s.draws + cs.length
          out := s.out ++ (cs.zip (vs.map PortAnswer.ok)).map .port })) ∨
    ∃ (k : Nat) (vs : List PortVal) (c : PortCall), cs[k]? = some c ∧ vs.length = k ∧
      s.portAll cs = (none,
        { s with
          portTape := s.portTape.drop (k + 1)
          draws := s.draws + (k + 1)
          out := s.out ++
            ((cs.take k).zip (vs.map PortAnswer.ok) ++
              [(c, PortAnswer.err)]).map .port })) ∧
  ∀ (itf : Itf) (h : Handler) (env : List Val) (s t : State), reasonsLegal s.cfg.reason = true →
    t = s.runHandler itf h env →
    ∃ log, t.portLog = s.portLog ++ log ∧ t.draws = s.draws + log.length ∧
      t.portTape = s.portTape.drop log.length ∧ (∀ e ∈ log, callItf e.1 = itf) ∧
      ∀ k c, log[k]? = some (c, .err) →
        k + 1 = log.length ∧
          t.tx = s.tx ++ [wire (encode (.errGeneric s.cfg.reason.hwFailure))]

/-- Every message that is no request, and every request of an interface that is not installed, is
answered ErrUnknownCode with no port call (30_encoding.md R73, 60_exceptions.md R177), as a message
and as any frame, its arguments readable or not: all 25 rows but the four generic requests fall under
it in some build, the 13 status codes and responses (Good, ErrGeneric, ErrCRC, ErrUnknownCode,
ErrInvalidArgs, ErrBusy, RespVersion, RespItfType, RespId, RespGpioDir, RespGpioValue, RespPwmDuty,
RespPwmFreq) in every build. -/
def Obligations.UnservedMessagesAreUnknown : Prop :=
  (∀ (s : State) (i : Instr),
    (i.op.requestSet = none ∨
      ∃ j, i.op.requestSet = some (.interface j) ∧ j ≠ s.cfg.itf) →
    exec i s = .next (s.answered .errUnknownCode)) ∧
  ∀ (s : State) (f : Frame),
    (category s.cfg f.opcode = some .statusGeneric ∨
      category s.cfg f.opcode = some .responseGeneric ∨
      (∃ j, category s.cfg f.opcode = some (.responsePerInterface j)) ∨
      ∃ j, category s.cfg f.opcode = some (.requestPerInterface j) ∧ j ≠ s.cfg.itf) →
    processFrame f s = .next (s.answered .errUnknownCode)

/-- The frame of every message: what running it leaves unchanged (10_state.md R28, R35, R36;
20_memory.md R50). Nothing but the encoder, TX, PORT and DIAG changes; only a request of the installed
interface calls the port, and only that interface's operations; at most one message leaves, and it is
the last thing put out, behind every port call and report; with legal texts exactly one leaves, and only
PwmSetFrequency reports on DIAG. -/
def Obligations.MessagesWriteNoBlockState : Prop :=
  ∀ (i : Instr) (s t : State), exec i s = .next t →
    t.cfgIn = s.cfgIn ∧ t.cfg = s.cfg ∧ t.dec = s.dec ∧ t.enc = [] ∧ t.chunk = s.chunk ∧
    t.off = s.off ∧ t.rx = s.rx ∧ t.resetReq = s.resetReq ∧ t.resets = s.resets ∧
    s.tx <+: t.tx ∧ t.tx.length ≤ s.tx.length + 1 ∧ s.diag <+: t.diag ∧
    (∃ (before : List OutEvent) (last : OutEvent), t.out = s.out ++ before ++ [last] ∧
      (∀ e ∈ before, e.message? = none) ∧ last.call? = none) ∧
    (∃ log, t.portLog = s.portLog ++ log ∧ t.draws = s.draws + log.length ∧
      t.portTape = s.portTape.drop log.length ∧
      ∀ e ∈ log, callItf e.1 = s.cfg.itf ∧ i.op.requestSet = some (.interface s.cfg.itf)) ∧
    (reasonsLegal s.cfg.reason = true → s.cfg.version.length ≤ 60 →
      t.tx.length = s.tx.length + 1 ∧ (i.op ≠ .pwmSetFrequency → t.diag = s.diag))

/-! ## Frequency quantizer and f32 -/

/-- What every run of the quantizer returns (44_frequency_quantizer.md R158, R165, R170): registers in
their ranges, a period of at least 1 of which the achieved frequency is the frequency, 1 to 20
iterations, and a result no worse than the first candidate examined (R164). -/
def Obligations.QuantizerResultInRange : Prop :=
  ∀ (fsys : Nat) (f : Rat) (q : Quant), 0 < f → q = quantize fsys f →
    q.top ≤ 65535 ∧ (q.divInt = 1 ∨ q.divInt = 255) ∧ q.divFrac ≤ 15 ∧
    1 ≤ q.iterationsUsed ∧ q.iterationsUsed ≤ 20 ∧
    q.achievedPeriod = pwmPeriod q.top q.pc q.divInt q.divFrac ∧ 1 ≤ q.achievedPeriod ∧
    q.achievedFrequency = fsys / q.achievedPeriod ∧
    |f - q.achievedFrequency| ≤ |f - pwmFrequency fsys q.top q.pc q.divInt 15|

/-- A run that stops before the iteration cap is within the tolerance of 0.1 Hz
(44_frequency_quantizer.md R165). -/
def Obligations.EarlyStopIsWithinTolerance : Prop :=
  ∀ (fsys : Nat) (f : Rat), (quantize fsys f).iterationsUsed < 20 →
    |f - (quantize fsys f).achievedFrequency| ≤ 1 / 10

/-- 44_frequency_quantizer.md R162: the coarse thresholds, both strict. -/
def Obligations.CoarseThresholdsAreStrict : Prop :=
  ∀ (fsys : Nat) (f : Rat),
    (quantize fsys f).divInt = (if f < 1000 then 255 else 1) ∧
    ((quantize fsys f).pc = false ↔ 62500000 < f)

/-- 44_frequency_quantizer.md R161: TOP is half the wanted period, floored, within 0 and 65535. -/
def Obligations.TopIsHalfThePeriodWanted : Prop :=
  ∀ (fsys : Nat) (f : Rat), 0 < f →
    (quantize fsys f).periodWanted = fsys / f ∧
    ((fsys : Rat) / f < 2 → (quantize fsys f).top = 0) ∧
    ((fsys : Rat) / f < 131072 → ((quantize fsys f).top : Int) = ⌊(fsys : Rat) / f / 2⌋) ∧
    (131072 ≤ (fsys : Rat) / f → (quantize fsys f).top = 65535)

/-- An inference the spec marks as its own, 44_frequency_quantizer.md R171: the three points of the
convergence property at the default system clock. -/
def Obligations.ConvergencePoints : Prop :=
  ∀ q1 q2 q3 : Quant, q1 = quantize 125000000 1000 →
    q2 = quantize 125000000 (11744051 / 2097152) → q3 = quantize 125000000 62500000 →
    f32Value 0x40B33333 = .fin (11744051 / 2097152) ∧
    q1.iterationsUsed = 8 ∧ q1.achievedFrequency = 62500000 / 62501 ∧
    1000 - q1.achievedFrequency ≤ 1 / 10 ∧
    q2.iterationsUsed = 20 ∧ q2.achievedFrequency = 390625 / 104448 ∧
    q3.iterationsUsed = 20 ∧ q3.achievedFrequency = 31250000

/-- A frequency set and then read back from a port that keeps its registers is reported as the same
pattern both times (44_frequency_quantizer.md R168, an inference the spec marks as its own). -/
def Obligations.SetThenGetReportsTheSame : Prop :=
  ∀ (s : State) (channel : Byte) (value : F32) (f : Rat) (q : Quant) (a b c d : PortVal)
    (rest : List PortAnswer), s.cfg.itf = .pwm → f32Value value = .fin f → 0 < f →
    q = quantize s.cfg.fsys f →
    s.portTape = .ok a :: .ok b :: .ok c :: .ok d :: .okNum (BitVec.ofNat 32 q.top) ::
      .okNum (BitVec.ofNat 32 q.divInt) :: .okNum (BitVec.ofNat 32 q.divFrac) ::
      .okNum (if q.pc then 1 else 0) :: rest →
    ∃ t u m, m = wire (encode (.respPwmFreq channel (rne32 q.achievedFrequency))) ∧
      exec (.pwmSetFrequency channel value) s = .next t ∧ t.tx = s.tx ++ [m] ∧
      exec (.pwmGetFrequency channel) t = .next u ∧ u.tx = s.tx ++ [m, m] ∧ u.portTape = rest

/-- Rounding gives back every positive finite pattern (00_scope.md R19). -/
def Obligations.RoundingKeepsPatterns : Prop :=
  ∀ (u : F32) (q : Rat), f32Value u = .fin q → 0 < q → rne32 q = u

/-- Rounding a value within the finite range gives a finite pattern nearest to it among all finite
patterns, and an even one where another is as near (00_scope.md R19). -/
def Obligations.RoundingIsNearestEven : Prop :=
  ∀ q : Rat, 0 < q → (∃ (w : F32) (m : Rat), f32Value w = .fin m ∧ q ≤ m) →
    ∃ r : Rat, f32Value (rne32 q) = .fin r ∧
      ∀ (u : F32) (v : Rat), f32Value u = .fin v →
        |r - q| ≤ |v - q| ∧
          (|r - q| = |v - q| → v ≠ r → (rne32 q).getLsbD 0 = false)

/-- Every frequency the block reports, that of registers within their ranges at any system clock, is a
finite positive pattern (42_command_model.md R132). For a frequency beyond the largest finite pattern
this rests on log entry 8, the model's inference. -/
def Obligations.ReportedFrequencyIsFinitePositive : Prop :=
  ∀ (fsys top di df : Nat) (pc : Bool), 1 ≤ fsys → top ≤ 65535 → 1 ≤ di → di ≤ 255 → df ≤ 15 →
    ∃ r : Rat, f32Value (rne32 (pwmFrequency fsys top pc di df)) = .fin r ∧ 0 < r

/-! ## Frames, routing and the control loop -/

/-- When the decoder completes a frame that carries a message of the table, the step is the meaning of
that message, then the decoder's reset and the cursor's advance (43_dispatcher.md R152, R154). -/
def Obligations.StepRunsDecodedMessage : Prop :=
  ∀ (s : State) (n : Nat) (d : Dec) (i : Instr), s.resetReq = .none →
    s.chunk.drop s.off ≠ [] →
    decFeed Config.decCap s.dec (s.chunk.drop s.off) = (.ok n true, d) →
    decode d.acc = .ok i →
      ∃ t, exec i { s with dec := d } = .next t ∧
        step s = .next ({ t with dec := ⟨[], false⟩ }.advance n)

/-- A well-formed message on the wire reaches its meaning whatever the configuration: from any idle
state with an empty decoder, two steps take the chunk that holds it, run exactly that message, and
leave the block idle with an empty decoder (30_encoding.md R69, 43_dispatcher.md R154). -/
def Obligations.WireMessageRunsItsMeaning : Prop :=
  ∀ (i : Instr) (s : State), i.wellFormed = true → s.Idle → s.dec = Dec.empty →
    ∃ t, exec i { s with chunk := wire (encode i), dec := ⟨encode i, false⟩ } = .next t ∧
      Host.Core.run Sys2Proof.core 2 (s.deliver (wire (encode i))) =
        .next { t with chunk := [], off := 0, dec := Dec.empty }

/-- `process_frame` goes by category, then installed interface, then request decoder, then handler, for
rows of the opcode table and entries of the command tables (43_dispatcher.md R136, 42_command_model.md
R107). -/
def Obligations.RoutingFollowsCategories : Prop :=
  ∀ (f : Frame) (s : State), processFrame f s = routeByCategory f s

/-- `process_frame` answers every frame with exactly one message (43_dispatcher.md R138, whose count
of messages the spec marks as its own inference), which leaves behind every port call of that frame
(20_memory.md R50). What a table handler sends is the model's choice:
log entry 4. -/
def Obligations.EveryFrameGetsOneResponse : Prop :=
  ∀ (f : Frame) (s : State), cfgLegal s.cfg.toCfgParams = true →
    f.payload.length ≤ Config.payloadCap →
    ∃ (t : State) (g : Frame), processFrame f s = .next t ∧
      g.payload.length ≤ Config.payloadCap ∧ t.tx = s.tx ++ [wire g.toBytes] ∧
      ∃ before : List OutEvent, t.out = s.out ++ before ++ [.tx (wire g.toBytes)] ∧
        ∀ e ∈ before, e.message? = none

/-- 60_exceptions.md R176: a completed frame that does not parse is reported on DIAG and answered with
its status code, with no port call; the decoder and the encoder are reset and the loop goes on behind
the frame's END. -/
def Obligations.FrameErrorsAreAnswered : Prop :=
  ∀ (s : State) (n : Nat) (d : Dec) (e : FrameErr), s.resetReq = .none →
    s.chunk.drop s.off ≠ [] → reasonsLegal s.cfg.reason = true →
    decFeed Config.decCap s.dec (s.chunk.drop s.off) = (.ok n true, d) →
    Frame.fromBytes (knownOpcode s.cfg) d.acc = .error e →
    step s = .next
      (({ s with
          dec := ⟨[], false⟩
          enc := []
          out := s.out ++ [.diag (.frameError e), .tx (wire (encode
            (match e with
            | .tooShort => .errGeneric s.cfg.reason.tooShort
            | .checksumMismatch _ _ => .errCRC
            | .unknownOpcode _ => .errUnknownCode)))] } : State).advance n)

/-- A request of a served set whose payload is shorter than its layout is answered ErrInvalidArgs with
no port call; one of an interface that is not installed, or a message that is no request, is answered
ErrUnknownCode first (43_dispatcher.md R136, 60_exceptions.md R177, R178). -/
def Obligations.ShortArgumentsAreRefused : Prop :=
  ∀ (f : Frame) (s : State) (o : Op), Op.ofCode f.opcode = some o → f.payload.length < o.minPayload →
    reasonsLegal s.cfg.reason = true →
    processFrame f s = .next
      (if o.requestSet = some .generic ∨ o.requestSet = some (.interface s.cfg.itf) then
        s.answered (.errInvalidArgs s.cfg.reason.invalidArgs)
       else s.answered .errUnknownCode)

/-- 43_dispatcher.md R155: a transport error is reported with its offset in the feed, the frame in
progress is dropped, nothing is sent, and the loop goes on behind the offending byte; an `END` after
`ESC` is such a byte. -/
def Obligations.TransportErrorsDropTheFrame : Prop :=
  (∀ (cap : Nat) (acc rest : Bytes),
    decFeed cap ⟨acc, true⟩ (0xC0 :: rest) = (.err .badEscape 0, ⟨acc, true⟩)) ∧
  ∀ (s : State) (k : Nat) (d : Dec) (e : TransportErr), s.resetReq = .none →
    decFeed Config.decCap s.dec (s.chunk.drop s.off) = (.err e k, d) →
    step s = .next
      (({ s with
          dec := ⟨[], false⟩
          out := s.out ++ [.diag (.transportError e k)] } : State).advance (k + 1))

/-- A request that a legal UART or I2C table defines, in a build that installs that interface: its
layout is decoded, and its handler runs on the fields (43_dispatcher.md R151). The form of a table entry
is the model's choice: log entry 4. What a handler's calls can do is said in PortCallsStopAtFirstErr,
and that one response leaves in EveryFrameGetsOneResponse. -/
def Obligations.TableRequestsAreServed : Prop :=
  ∀ (s : State) (e : RequestEntry) (f : Frame), cfgLegal s.cfg.toCfgParams = true →
    e ∈ (cmdTable s.cfg s.cfg.itf).requests → f.opcode = e.opcode →
    processFrame f s = .next
      (match (ArgParser.new f.payload).consumeLayout e.layout with
      | none => s.answered (.errInvalidArgs s.cfg.reason.invalidArgs)
      | some fields => s.runHandler s.cfg.itf e.handler (fields.map Val.ofField))

/-- What a step puts on TX: one wire message if it completes a frame, and otherwise nothing
(70_reset_and_hazards.md R197, an inference the spec marks as its own). The message leaves behind every
port call of its request, and so the messages of a run leave in the order their frames completed
(20_memory.md R50). -/
def Obligations.OneMessagePerCompletedFrame : Prop :=
  ∀ s t : State, s.Inv → s.resetReq = .none → step s = .next t →
    ((∃ n d, s.chunk.drop s.off ≠ [] ∧
        decFeed Config.decCap s.dec (s.chunk.drop s.off) = (.ok n true, d)) →
      ∃ (g : Frame) (before : List OutEvent), g.payload.length ≤ Config.payloadCap ∧
        t.tx = s.tx ++ [wire g.toBytes] ∧
        t.out = s.out ++ before ++ [.tx (wire g.toBytes)] ∧ ∀ e ∈ before, e.message? = none) ∧
    ((∀ n d, decFeed Config.decCap s.dec (s.chunk.drop s.off) ≠ (.ok n true, d)) →
      t.tx = s.tx ∧ t.portLog = s.portLog)

/-- The block goes on from every state: no failure is fatal (60_exceptions.md R173). -/
def Obligations.NoFailureIsFatal : Prop :=
  ∀ s : State, ∃ t, step s = .next t

/-- With no chunk in progress, none delivered and no reset asked for, a step changes nothing: a
partial frame waits (70_reset_and_hazards.md R194). -/
def Obligations.PartialFrameWaits : Prop :=
  ∀ s : State, s.Idle → step s = .next s

/-- One END brings a decoder in an unknown state back to empty, with at most one response: none where
an escape was pending, ErrGeneric "too short" where nothing was pending (70_reset_and_hazards.md R195,
an inference the spec marks as its own). -/
def Obligations.OneEndResynchronises : Prop :=
  ∀ s : State, s.Inv → s.Idle →
    ∃ t, Host.Core.run Sys2Proof.core 2 (s.deliver [0xC0]) = .next t ∧ t.Idle ∧
      t.dec = Dec.empty ∧
      (s.dec.esc = true →
        t.tx = s.tx ∧ t.diag = s.diag ++ [.transportError .badEscape 0]) ∧
      (s.dec.esc = false → ∃ m, t.tx = s.tx ++ [m]) ∧
      (s.dec = Dec.empty →
        t.tx = s.tx ++ [wire (encode (.errGeneric s.cfg.reason.tooShort))])

/-- ErrBusy never leaves; received, it is answered ErrUnknownCode (60_exceptions.md R183). -/
def Obligations.ErrBusyIsNeverSent : Prop :=
  (∀ s t : State, s.Inv → step s = .next t →
    ∀ m ∈ t.tx, m ∈ s.tx ∨ m ≠ wire (encode .errBusy)) ∧
  ∀ s : State, exec .errBusy s = .next (s.answered .errUnknownCode)

/-- Every port call is of the installed interface, none is `enable` or `disable`, and none is made in
a step that completes no frame (60_exceptions.md R186, R189). -/
def Obligations.OnlyInstalledPortOperations : Prop :=
  ∀ s t : State, step s = .next t →
    ∃ log, t.portLog = s.portLog ++ log ∧
      (∀ e ∈ log, callItf e.1 = s.cfg.itf ∧ (∀ c, e.1 ≠ .enable c) ∧ ∀ c, e.1 ≠ .disable c) ∧
      ((∀ n d, decFeed Config.decCap s.dec (s.chunk.drop s.off) ≠ (.ok n true, d)) → log = [])

/-- DIAG never affects anything else (10_state.md R34), nor does any output put out before: a step only
appends to the outputs, and with any other outputs put out before it, on DIAG or elsewhere, it appends the
same events and does all else alike. -/
def Obligations.DiagIsOnlyAnOutput : Prop :=
  ∀ (s t : State) (o : List OutEvent), step s = .next t →
    ∃ es : List OutEvent, t.out = s.out ++ es ∧
      step { s with out := o } = .next { t with out := o ++ es }

/-- How the host cuts its stream into chunks changes only the offsets on DIAG: from any idle state,
two chunks and their concatenation lead to the same state, with the same outputs in the same order, but
for those offsets (10_state.md R30, an inference the spec marks as its own). -/
def Obligations.ChunkingChangesOnlyOffsets : Prop :=
  ∀ (s : State) (c1 c2 : Bytes), s.Idle →
    ∃ (m n : Nat) (t1 t2 : State),
      Host.Core.run Sys2Proof.core m (s.deliver (c1 ++ c2)) = .next t1 ∧
      Host.Core.run Sys2Proof.core n ((s.deliver c1).deliver c2) = .next t2 ∧
      t1.Idle ∧ t2.Idle ∧
      { t1 with out := [] } = { t2 with out := [] } ∧
      t1.out.map OutEvent.forgetOffset = t2.out.map OutEvent.forgetOffset

/-! ## Reset, configuration and the invariant -/

/-- 10_state.md R35: the values after a reset; the drawn id stays until the next one. The model's
own choices: the parameter values of its reset state (log entries 1, 2 and 11), the number of the draw
and the count of resets (log entry 3), and that chunks delivered and not yet taken stay (log entry 5).
-/
def Obligations.ResetLeavesSpecValues : Prop :=
  (∀ s : State, s.resetReq = .atOnce →
    step s = .next
      { s with
        dec := ⟨[], false⟩
        enc := []
        cfg := { s.cfgIn with deviceId := Config.deviceIdDraw s.resets }
        chunk := []
        off := 0
        resetReq := .none
        resets := s.resets + 1 }) ∧
  (∀ s t : State, s.resetReq = .none → step s = .next t → t.cfg.deviceId = s.cfg.deviceId) ∧
  State.reset.dec = ⟨[], false⟩ ∧ State.reset.enc = [] ∧
  State.reset.cfg = { Config.params with deviceId := Config.deviceIdDraw 0 } ∧
  State.reset.chunk = [] ∧ State.reset.off = 0

/-- 10_state.md R33: the CFG inputs are sampled at a reset and at no other step; changing them has no
other effect before it. -/
def Obligations.ConfigIsSampledAtResetOnly : Prop :=
  ∀ s t : State, step s = .next t →
    (s.resetReq ≠ .none → t.cfg.toCfgParams = s.cfgIn) ∧
    (s.resetReq = .none → t.cfg = s.cfg ∧
      ∀ p : CfgParams, step { s with cfgIn := p } = .next { t with cfgIn := p })

/-- A reset that lands before the response of a frame is given to TX loses that response, and undoes
no port call (70_reset_and_hazards.md R191). Where it lands in the round is the model's choice of two
places: log entry 5. -/
def Obligations.LateResetLosesTheResponse : Prop :=
  ∀ s t u : State, s.resetReq = .beforeSend → step s = .next t →
    step { s with resetReq := .none } = .next u →
      (∃ es, u.out = s.out ++ es ∧ t.out = s.out ++ es.filter fun e => e.message?.isNone) ∧
      t.tx = s.tx ∧ t.portLog = u.portLog ∧ t.diag = u.diag ∧ t.dec = Dec.empty ∧ t.enc = [] ∧
      t.chunk = [] ∧ t.off = 0 ∧ t.rx = u.rx ∧ t.resetReq = .none ∧
      t.cfg.toCfgParams = s.cfgIn

/-- Every step keeps the invariant: capacities, an empty encoder, the cursor in its chunk, legal
configuration (10_state.md R22 to R25, 20_memory.md R49). -/
def Obligations.EveryStepKeepsInv : Prop :=
  ∀ s t : State, s.Inv → step s = .next t → t.Inv

/-- The invariant holds right after power-on of every default build, the model's own reset state among
them (10_state.md R35; the installed interface of the latter is the model's choice: log entry 1). -/
def Obligations.PowerOnHasInv : Prop :=
  State.reset.Inv ∧ ∀ itf : Itf, (State.powerOn (Config.paramsFor itf)).Inv
end

