-- ==== Sys2Proof/Laws/Bytes.lean ====
section
/-! SUPPORT. The big-endian helpers undo each other (00_scope.md R16). -/

namespace Sys2Proof

@[simp] theorem be16_length (v : U16) : (be16 v).length = 2 := rfl

@[simp] theorem be32_length (v : U32) : (be32 v).length = 4 := rfl

theorem u16Of_split (v : U16) : u16Of (v.extractLsb' 8 8) (v.extractLsb' 0 8) = v := by
  apply BitVec.eq_of_toNat_eq
  have := v.isLt
  simp only [u16Of, BitVec.extractLsb'_toNat, BitVec.toNat_ofNat, Nat.shiftRight_eq_div_pow]
  omega

theorem u32Of_split (v : U32) :
    u32Of (v.extractLsb' 24 8) (v.extractLsb' 16 8) (v.extractLsb' 8 8) (v.extractLsb' 0 8) = v := by
  apply BitVec.eq_of_toNat_eq
  have := v.isLt
  simp only [u32Of, BitVec.extractLsb'_toNat, BitVec.toNat_ofNat, Nat.shiftRight_eq_div_pow]
  omega

theorem be16_u16Of (a b : Byte) : be16 (u16Of a b) = [a, b] := by
  have := a.isLt
  have := b.isLt
  simp only [be16, List.cons.injEq, and_true]
  constructor <;> apply BitVec.eq_of_toNat_eq <;>
    simp only [u16Of, BitVec.extractLsb'_toNat, BitVec.toNat_ofNat, Nat.shiftRight_eq_div_pow] <;>
    omega

theorem be32_u32Of (a b c d : Byte) : be32 (u32Of a b c d) = [a, b, c, d] := by
  have := a.isLt
  have := b.isLt
  have := c.isLt
  have := d.isLt
  simp only [be32, List.cons.injEq, and_true]
  refine ⟨?_, ?_, ?_, ?_⟩ <;> apply BitVec.eq_of_toNat_eq <;>
    simp only [u32Of, BitVec.extractLsb'_toNat, BitVec.toNat_ofNat, Nat.shiftRight_eq_div_pow] <;>
    omega

theorem be16_injective {a b : U16} (h : be16 a = be16 b) : a = b := by
  simp only [be16, List.cons.injEq, and_true] at h
  rw [← u16Of_split a, ← u16Of_split b, h.1, h.2]

@[simp] theorem u16At_be16_append (v : U16) (rest : Bytes) : u16At (be16 v ++ rest) = v :=
  u16Of_split v

@[simp] theorem u16At_be16 (v : U16) : u16At (be16 v) = v := u16Of_split v

theorem Id8.ofBytes_toBytes (i : Id8) : Id8.ofBytes i.toBytes = some i := rfl

end Sys2Proof
end

