-- ==== Sys2Proof/Laws/Frame.lean ====
section
/-! SUPPORT. What the frame parser and the message reader can answer (41_frame_protocol.md R94,
42_command_model.md R107). -/

namespace Sys2Proof

theorem Frame.toBytes_length (f : Frame) : f.toBytes.length = f.payload.length + 4 := by
  simp [Frame.toBytes]
  omega

/-- A raw frame of four bytes or more is its opcode, its payload and its checksum field. -/
theorem raw_parts (raw : Bytes) (h : 4 ≤ raw.length) :
    raw = be16 (u16At raw) ++ (raw.take (raw.length - 2)).drop 2 ++
      be16 (u16At (raw.drop (raw.length - 2))) := by
  match raw, h with
  | a :: b :: rest, h =>
    have hr : 2 ≤ rest.length := by simpa using h
    have hd : ∃ c e, rest.drop (rest.length - 2) = [c, e] := by
      have hl : (rest.drop (rest.length - 2)).length = 2 := by
        simp only [List.length_drop]
        omega
      match hx : rest.drop (rest.length - 2), hl with
      | [c, e], _ => exact ⟨c, e, rfl⟩
    obtain ⟨c, e, hce⟩ := hd
    have h2 : (a :: b :: rest).length - 2 = (rest.length - 2) + 2 := by
      simp only [List.length_cons]
      omega
    rw [h2]
    simp only [List.take_succ_cons, List.drop_succ_cons, List.drop_zero, hce, u16At, be16_u16Of,
      List.cons_append, List.nil_append]
    rw [← hce, List.take_append_drop]

/-- A frame that parses is the serialisation of what it parses to. -/
theorem Frame.fromBytes_ok {known : U16 → Bool} {raw : Bytes} {f : Frame}
    (h : Frame.fromBytes known raw = .ok f) :
    raw = f.toBytes ∧ known f.opcode = true ∧ f.payload.length ≤ Config.payloadCap ∧
      4 ≤ raw.length := by
  unfold Frame.fromBytes at h
  split at h
  · cases h
  · rename_i hlen
    dsimp only at h
    split at h
    · cases h
    · rename_i hcrc
      split at h
      · cases h
      · rename_i hk
        split at h
        · cases h
        · rename_i hp
          cases h
          have hl : 4 ≤ raw.length := by omega
          have hcrc' := not_not.mp hcrc
          have hparts := raw_parts raw hl
          have hbody : raw.take (raw.length - 2) =
              be16 (u16At raw) ++ (raw.take (raw.length - 2)).drop 2 := by
            have := congrArg (List.take (raw.length - 2)) hparts
            rwa [List.take_left' (by simp; omega)] at this
          refine ⟨?_, by simpa using hk, Nat.le_of_not_gt hp, hl⟩
          show raw = be16 (u16At raw) ++ (raw.take (raw.length - 2)).drop 2 ++
            be16 (crc16 (be16 (u16At raw) ++ (raw.take (raw.length - 2)).drop 2))
          rw [← hbody, ← hcrc', hcrc', ← hcrc', hbody]
          simpa [List.append_assoc] using hparts

theorem Op.ofCode_code (o : Op) : Op.ofCode o.code = some o := by cases o <;> rfl

theorem Op.ofCode_some {c : U16} {o : Op} (h : Op.ofCode c = some o) : o.code = c := by
  have := List.find?_some h
  simpa using this

/-- A message read from a frame is of the row of the frame's opcode. -/
theorem Frame.message_ok {f : Frame} {i : Instr} (h : f.message = .ok i) :
    ∃ o, Op.ofCode f.opcode = some o ∧ o.decodeArgs (ArgParser.new f.payload) = some i := by
  unfold Frame.message at h
  split at h
  · cases h
  · rename_i o ho
    split at h
    · cases h
    · rename_i j hj
      cases h
      exact ⟨o, ho, hj⟩

end Sys2Proof
end

