-- ==== Sys2Proof/Laws/State.lean ====
section
/-! SUPPORT. One lemma per field and view per named update of the state, so that no proof unfolds an
update. -/

namespace Sys2Proof.Machine

/-! ## Output events and the three views of them -/

@[simp] theorem OutEvent.message?_tx (m : Bytes) : (OutEvent.tx m).message? = some m := rfl
@[simp] theorem OutEvent.message?_port (c : PortCall × PortAnswer) :
    (OutEvent.port c).message? = none := rfl
@[simp] theorem OutEvent.message?_diag (e : DiagEvent) : (OutEvent.diag e).message? = none := rfl
@[simp] theorem OutEvent.call?_tx (m : Bytes) : (OutEvent.tx m).call? = none := rfl
@[simp] theorem OutEvent.call?_port (c : PortCall × PortAnswer) :
    (OutEvent.port c).call? = some c := rfl
@[simp] theorem OutEvent.call?_diag (e : DiagEvent) : (OutEvent.diag e).call? = none := rfl
@[simp] theorem OutEvent.report?_tx (m : Bytes) : (OutEvent.tx m).report? = none := rfl
@[simp] theorem OutEvent.report?_port (c : PortCall × PortAnswer) :
    (OutEvent.port c).report? = none := rfl
@[simp] theorem OutEvent.report?_diag (e : DiagEvent) : (OutEvent.diag e).report? = some e := rfl

@[simp] theorem OutEvent.message?_comp_port : OutEvent.message? ∘ OutEvent.port = fun _ => none := rfl
@[simp] theorem OutEvent.call?_comp_port : OutEvent.call? ∘ OutEvent.port = some := rfl
@[simp] theorem OutEvent.report?_comp_port : OutEvent.report? ∘ OutEvent.port = fun _ => none := rfl

/-- A list of port calls is silent on TX. -/
theorem message?_of_mem_port (log : List (PortCall × PortAnswer)) :
    ∀ e ∈ log.map OutEvent.port, e.message? = none := by
  intro e he
  obtain ⟨c, -, rfl⟩ := List.mem_map.1 he
  rfl

/-- A list of port calls is its own PORT view, and is silent on TX and DIAG. -/
theorem filterMap_call?_port (log : List (PortCall × PortAnswer)) :
    (log.map OutEvent.port).filterMap OutEvent.call? = log := by simp
theorem filterMap_message?_port (log : List (PortCall × PortAnswer)) :
    (log.map OutEvent.port).filterMap OutEvent.message? = [] := by simp
theorem filterMap_report?_port (log : List (PortCall × PortAnswer)) :
    (log.map OutEvent.port).filterMap OutEvent.report? = [] := by simp

/-- Events without those of TX: silent on TX, and the same on PORT and DIAG. -/
theorem filterMap_message?_filter (es : List OutEvent) :
    (es.filter fun e => e.message?.isNone).filterMap OutEvent.message? = [] := by
  simp [List.filterMap_eq_nil_iff]
theorem filterMap_call?_filter (es : List OutEvent) :
    (es.filter fun e => e.message?.isNone).filterMap OutEvent.call? =
      es.filterMap OutEvent.call? := by
  induction es with
  | nil => rfl
  | cons e rest ih => cases e <;> simpa [List.filter_cons, List.filterMap_cons] using ih
theorem filterMap_report?_filter (es : List OutEvent) :
    (es.filter fun e => e.message?.isNone).filterMap OutEvent.report? =
      es.filterMap OutEvent.report? := by
  induction es with
  | nil => rfl
  | cons e rest ih => cases e <;> simpa [List.filter_cons, List.filterMap_cons] using ih

/-- The TX view of a state whose output has grown by `es`. -/
theorem State.tx_of_out {s t : State} {es : List OutEvent} (h : t.out = s.out ++ es) :
    t.tx = s.tx ++ es.filterMap OutEvent.message? := by
  simp [State.tx, h]

/-- The PORT view of a state whose output has grown by `es`. -/
theorem State.portLog_of_out {s t : State} {es : List OutEvent} (h : t.out = s.out ++ es) :
    t.portLog = s.portLog ++ es.filterMap OutEvent.call? := by
  simp [State.portLog, h]

/-- The DIAG view of a state whose output has grown by `es`. -/
theorem State.diag_of_out {s t : State} {es : List OutEvent} (h : t.out = s.out ++ es) :
    t.diag = s.diag ++ es.filterMap OutEvent.report? := by
  simp [State.diag, h]

/-! ## The updates -/

@[simp] theorem State.emit_out (s : State) (es : List OutEvent) :
    (s.emit es).out = s.out ++ es := rfl
@[simp] theorem State.emit_cfgIn (s : State) (es : List OutEvent) :
    (s.emit es).cfgIn = s.cfgIn := rfl
@[simp] theorem State.emit_cfg (s : State) (es : List OutEvent) : (s.emit es).cfg = s.cfg := rfl
@[simp] theorem State.emit_dec (s : State) (es : List OutEvent) : (s.emit es).dec = s.dec := rfl
@[simp] theorem State.emit_enc (s : State) (es : List OutEvent) : (s.emit es).enc = s.enc := rfl
@[simp] theorem State.emit_chunk (s : State) (es : List OutEvent) :
    (s.emit es).chunk = s.chunk := rfl
@[simp] theorem State.emit_off (s : State) (es : List OutEvent) : (s.emit es).off = s.off := rfl
@[simp] theorem State.emit_rx (s : State) (es : List OutEvent) : (s.emit es).rx = s.rx := rfl
@[simp] theorem State.emit_portTape (s : State) (es : List OutEvent) :
    (s.emit es).portTape = s.portTape := rfl
@[simp] theorem State.emit_draws (s : State) (es : List OutEvent) :
    (s.emit es).draws = s.draws := rfl
@[simp] theorem State.emit_resetReq (s : State) (es : List OutEvent) :
    (s.emit es).resetReq = s.resetReq := rfl
@[simp] theorem State.emit_resets (s : State) (es : List OutEvent) :
    (s.emit es).resets = s.resets := rfl
@[simp] theorem State.emit_tx (s : State) (es : List OutEvent) :
    (s.emit es).tx = s.tx ++ es.filterMap OutEvent.message? := by simp [State.tx]
@[simp] theorem State.emit_portLog (s : State) (es : List OutEvent) :
    (s.emit es).portLog = s.portLog ++ es.filterMap OutEvent.call? := by simp [State.portLog]
@[simp] theorem State.emit_diag (s : State) (es : List OutEvent) :
    (s.emit es).diag = s.diag ++ es.filterMap OutEvent.report? := by simp [State.diag]

@[simp] theorem State.emitTx_cfgIn (s : State) (m : Bytes) : (s.emitTx m).cfgIn = s.cfgIn := rfl
@[simp] theorem State.emitTx_cfg (s : State) (m : Bytes) : (s.emitTx m).cfg = s.cfg := rfl
@[simp] theorem State.emitTx_dec (s : State) (m : Bytes) : (s.emitTx m).dec = s.dec := rfl
@[simp] theorem State.emitTx_enc (s : State) (m : Bytes) : (s.emitTx m).enc = s.enc := rfl
@[simp] theorem State.emitTx_chunk (s : State) (m : Bytes) : (s.emitTx m).chunk = s.chunk := rfl
@[simp] theorem State.emitTx_off (s : State) (m : Bytes) : (s.emitTx m).off = s.off := rfl
@[simp] theorem State.emitTx_rx (s : State) (m : Bytes) : (s.emitTx m).rx = s.rx := rfl
@[simp] theorem State.emitTx_out (s : State) (m : Bytes) :
    (s.emitTx m).out = s.out ++ [.tx m] := rfl
@[simp] theorem State.emitTx_tx (s : State) (m : Bytes) :
    (s.emitTx m).tx = s.tx ++ [m] := by simp [State.tx]
@[simp] theorem State.emitTx_portLog (s : State) (m : Bytes) :
    (s.emitTx m).portLog = s.portLog := by simp [State.portLog]
@[simp] theorem State.emitTx_diag (s : State) (m : Bytes) :
    (s.emitTx m).diag = s.diag := by simp [State.diag]
@[simp] theorem State.emitTx_portTape (s : State) (m : Bytes) :
    (s.emitTx m).portTape = s.portTape := rfl
@[simp] theorem State.emitTx_draws (s : State) (m : Bytes) : (s.emitTx m).draws = s.draws := rfl
@[simp] theorem State.emitTx_resetReq (s : State) (m : Bytes) :
    (s.emitTx m).resetReq = s.resetReq := rfl
@[simp] theorem State.emitTx_resets (s : State) (m : Bytes) : (s.emitTx m).resets = s.resets := rfl

@[simp] theorem State.emitDiag_cfgIn (s : State) (e : DiagEvent) :
    (s.emitDiag e).cfgIn = s.cfgIn := rfl
@[simp] theorem State.emitDiag_cfg (s : State) (e : DiagEvent) : (s.emitDiag e).cfg = s.cfg := rfl
@[simp] theorem State.emitDiag_dec (s : State) (e : DiagEvent) : (s.emitDiag e).dec = s.dec := rfl
@[simp] theorem State.emitDiag_enc (s : State) (e : DiagEvent) : (s.emitDiag e).enc = s.enc := rfl
@[simp] theorem State.emitDiag_chunk (s : State) (e : DiagEvent) :
    (s.emitDiag e).chunk = s.chunk := rfl
@[simp] theorem State.emitDiag_off (s : State) (e : DiagEvent) : (s.emitDiag e).off = s.off := rfl
@[simp] theorem State.emitDiag_rx (s : State) (e : DiagEvent) : (s.emitDiag e).rx = s.rx := rfl
@[simp] theorem State.emitDiag_out (s : State) (e : DiagEvent) :
    (s.emitDiag e).out = s.out ++ [.diag e] := rfl
@[simp] theorem State.emitDiag_tx (s : State) (e : DiagEvent) :
    (s.emitDiag e).tx = s.tx := by simp [State.tx]
@[simp] theorem State.emitDiag_portLog (s : State) (e : DiagEvent) :
    (s.emitDiag e).portLog = s.portLog := by simp [State.portLog]
@[simp] theorem State.emitDiag_diag (s : State) (e : DiagEvent) :
    (s.emitDiag e).diag = s.diag ++ [e] := by simp [State.diag]
@[simp] theorem State.emitDiag_portTape (s : State) (e : DiagEvent) :
    (s.emitDiag e).portTape = s.portTape := rfl
@[simp] theorem State.emitDiag_draws (s : State) (e : DiagEvent) :
    (s.emitDiag e).draws = s.draws := rfl
@[simp] theorem State.emitDiag_resetReq (s : State) (e : DiagEvent) :
    (s.emitDiag e).resetReq = s.resetReq := rfl
@[simp] theorem State.emitDiag_resets (s : State) (e : DiagEvent) :
    (s.emitDiag e).resets = s.resets := rfl

@[simp] theorem State.setEnc_cfgIn (s : State) (b : Bytes) : (s.setEnc b).cfgIn = s.cfgIn := rfl
@[simp] theorem State.setEnc_cfg (s : State) (b : Bytes) : (s.setEnc b).cfg = s.cfg := rfl
@[simp] theorem State.setEnc_dec (s : State) (b : Bytes) : (s.setEnc b).dec = s.dec := rfl
@[simp] theorem State.setEnc_enc (s : State) (b : Bytes) : (s.setEnc b).enc = b := rfl
@[simp] theorem State.setEnc_chunk (s : State) (b : Bytes) : (s.setEnc b).chunk = s.chunk := rfl
@[simp] theorem State.setEnc_off (s : State) (b : Bytes) : (s.setEnc b).off = s.off := rfl
@[simp] theorem State.setEnc_rx (s : State) (b : Bytes) : (s.setEnc b).rx = s.rx := rfl
@[simp] theorem State.setEnc_out (s : State) (b : Bytes) : (s.setEnc b).out = s.out := rfl
@[simp] theorem State.setEnc_tx (s : State) (b : Bytes) : (s.setEnc b).tx = s.tx := rfl
@[simp] theorem State.setEnc_portLog (s : State) (b : Bytes) :
    (s.setEnc b).portLog = s.portLog := rfl
@[simp] theorem State.setEnc_diag (s : State) (b : Bytes) : (s.setEnc b).diag = s.diag := rfl
@[simp] theorem State.setEnc_portTape (s : State) (b : Bytes) :
    (s.setEnc b).portTape = s.portTape := rfl
@[simp] theorem State.setEnc_draws (s : State) (b : Bytes) : (s.setEnc b).draws = s.draws := rfl
@[simp] theorem State.setEnc_resetReq (s : State) (b : Bytes) :
    (s.setEnc b).resetReq = s.resetReq := rfl
@[simp] theorem State.setEnc_resets (s : State) (b : Bytes) : (s.setEnc b).resets = s.resets := rfl

@[simp] theorem State.setDec_cfgIn (s : State) (d : Dec) : (s.setDec d).cfgIn = s.cfgIn := rfl
@[simp] theorem State.setDec_cfg (s : State) (d : Dec) : (s.setDec d).cfg = s.cfg := rfl
@[simp] theorem State.setDec_dec (s : State) (d : Dec) : (s.setDec d).dec = d := rfl
@[simp] theorem State.setDec_enc (s : State) (d : Dec) : (s.setDec d).enc = s.enc := rfl
@[simp] theorem State.setDec_chunk (s : State) (d : Dec) : (s.setDec d).chunk = s.chunk := rfl
@[simp] theorem State.setDec_off (s : State) (d : Dec) : (s.setDec d).off = s.off := rfl
@[simp] theorem State.setDec_rx (s : State) (d : Dec) : (s.setDec d).rx = s.rx := rfl
@[simp] theorem State.setDec_out (s : State) (d : Dec) : (s.setDec d).out = s.out := rfl
@[simp] theorem State.setDec_tx (s : State) (d : Dec) : (s.setDec d).tx = s.tx := rfl
@[simp] theorem State.setDec_portLog (s : State) (d : Dec) : (s.setDec d).portLog = s.portLog := rfl
@[simp] theorem State.setDec_diag (s : State) (d : Dec) : (s.setDec d).diag = s.diag := rfl
@[simp] theorem State.setDec_portTape (s : State) (d : Dec) :
    (s.setDec d).portTape = s.portTape := rfl
@[simp] theorem State.setDec_draws (s : State) (d : Dec) : (s.setDec d).draws = s.draws := rfl
@[simp] theorem State.setDec_resetReq (s : State) (d : Dec) :
    (s.setDec d).resetReq = s.resetReq := rfl
@[simp] theorem State.setDec_resets (s : State) (d : Dec) : (s.setDec d).resets = s.resets := rfl

@[simp] theorem State.decReset_cfgIn (s : State) : (s.decReset).cfgIn = s.cfgIn := rfl
@[simp] theorem State.decReset_cfg (s : State) : (s.decReset).cfg = s.cfg := rfl
@[simp] theorem State.decReset_dec (s : State) : (s.decReset).dec = Dec.empty := rfl
@[simp] theorem State.decReset_enc (s : State) : (s.decReset).enc = s.enc := rfl
@[simp] theorem State.decReset_chunk (s : State) : (s.decReset).chunk = s.chunk := rfl
@[simp] theorem State.decReset_off (s : State) : (s.decReset).off = s.off := rfl
@[simp] theorem State.decReset_rx (s : State) : (s.decReset).rx = s.rx := rfl
@[simp] theorem State.decReset_out (s : State) : (s.decReset).out = s.out := rfl
@[simp] theorem State.decReset_tx (s : State) : (s.decReset).tx = s.tx := rfl
@[simp] theorem State.decReset_portLog (s : State) : (s.decReset).portLog = s.portLog := rfl
@[simp] theorem State.decReset_diag (s : State) : (s.decReset).diag = s.diag := rfl
@[simp] theorem State.decReset_portTape (s : State) : (s.decReset).portTape = s.portTape := rfl
@[simp] theorem State.decReset_draws (s : State) : (s.decReset).draws = s.draws := rfl
@[simp] theorem State.decReset_resetReq (s : State) : (s.decReset).resetReq = s.resetReq := rfl
@[simp] theorem State.decReset_resets (s : State) : (s.decReset).resets = s.resets := rfl

@[simp] theorem State.afterPort_cfgIn (s : State) (c : PortCall) :
    (s.afterPort c).cfgIn = s.cfgIn := rfl
@[simp] theorem State.afterPort_cfg (s : State) (c : PortCall) : (s.afterPort c).cfg = s.cfg := rfl
@[simp] theorem State.afterPort_dec (s : State) (c : PortCall) : (s.afterPort c).dec = s.dec := rfl
@[simp] theorem State.afterPort_enc (s : State) (c : PortCall) : (s.afterPort c).enc = s.enc := rfl
@[simp] theorem State.afterPort_chunk (s : State) (c : PortCall) :
    (s.afterPort c).chunk = s.chunk := rfl
@[simp] theorem State.afterPort_off (s : State) (c : PortCall) : (s.afterPort c).off = s.off := rfl
@[simp] theorem State.afterPort_rx (s : State) (c : PortCall) : (s.afterPort c).rx = s.rx := rfl
@[simp] theorem State.afterPort_out (s : State) (c : PortCall) :
    (s.afterPort c).out = s.out ++ [.port (c, s.portAnswer c)] := rfl
@[simp] theorem State.afterPort_tx (s : State) (c : PortCall) :
    (s.afterPort c).tx = s.tx := by simp [State.tx]
@[simp] theorem State.afterPort_portLog (s : State) (c : PortCall) :
    (s.afterPort c).portLog = s.portLog ++ [(c, s.portAnswer c)] := by simp [State.portLog]
@[simp] theorem State.afterPort_diag (s : State) (c : PortCall) :
    (s.afterPort c).diag = s.diag := by simp [State.diag]
@[simp] theorem State.afterPort_portTape (s : State) (c : PortCall) :
    (s.afterPort c).portTape = s.portTape.tail := rfl
@[simp] theorem State.afterPort_draws (s : State) (c : PortCall) :
    (s.afterPort c).draws = s.draws + 1 := rfl
@[simp] theorem State.afterPort_resetReq (s : State) (c : PortCall) :
    (s.afterPort c).resetReq = s.resetReq := rfl
@[simp] theorem State.afterPort_resets (s : State) (c : PortCall) :
    (s.afterPort c).resets = s.resets := rfl

@[simp] theorem State.takeChunk_cfgIn (s : State) (c : Bytes) (r : List Bytes) :
    (s.takeChunk c r).cfgIn = s.cfgIn := rfl
@[simp] theorem State.takeChunk_cfg (s : State) (c : Bytes) (r : List Bytes) :
    (s.takeChunk c r).cfg = s.cfg := rfl
@[simp] theorem State.takeChunk_dec (s : State) (c : Bytes) (r : List Bytes) :
    (s.takeChunk c r).dec = s.dec := rfl
@[simp] theorem State.takeChunk_enc (s : State) (c : Bytes) (r : List Bytes) :
    (s.takeChunk c r).enc = s.enc := rfl
@[simp] theorem State.takeChunk_chunk (s : State) (c : Bytes) (r : List Bytes) :
    (s.takeChunk c r).chunk = c := rfl
@[simp] theorem State.takeChunk_off (s : State) (c : Bytes) (r : List Bytes) :
    (s.takeChunk c r).off = 0 := rfl
@[simp] theorem State.takeChunk_rx (s : State) (c : Bytes) (r : List Bytes) :
    (s.takeChunk c r).rx = r := rfl
@[simp] theorem State.takeChunk_out (s : State) (c : Bytes) (r : List Bytes) :
    (s.takeChunk c r).out = s.out := rfl
@[simp] theorem State.takeChunk_tx (s : State) (c : Bytes) (r : List Bytes) :
    (s.takeChunk c r).tx = s.tx := rfl
@[simp] theorem State.takeChunk_portLog (s : State) (c : Bytes) (r : List Bytes) :
    (s.takeChunk c r).portLog = s.portLog := rfl
@[simp] theorem State.takeChunk_diag (s : State) (c : Bytes) (r : List Bytes) :
    (s.takeChunk c r).diag = s.diag := rfl
@[simp] theorem State.takeChunk_portTape (s : State) (c : Bytes) (r : List Bytes) :
    (s.takeChunk c r).portTape = s.portTape := rfl
@[simp] theorem State.takeChunk_draws (s : State) (c : Bytes) (r : List Bytes) :
    (s.takeChunk c r).draws = s.draws := rfl
@[simp] theorem State.takeChunk_resetReq (s : State) (c : Bytes) (r : List Bytes) :
    (s.takeChunk c r).resetReq = s.resetReq := rfl
@[simp] theorem State.takeChunk_resets (s : State) (c : Bytes) (r : List Bytes) :
    (s.takeChunk c r).resets = s.resets := rfl

@[simp] theorem State.deliver_cfgIn (s : State) (c : Bytes) : (s.deliver c).cfgIn = s.cfgIn := rfl
@[simp] theorem State.deliver_cfg (s : State) (c : Bytes) : (s.deliver c).cfg = s.cfg := rfl
@[simp] theorem State.deliver_dec (s : State) (c : Bytes) : (s.deliver c).dec = s.dec := rfl
@[simp] theorem State.deliver_enc (s : State) (c : Bytes) : (s.deliver c).enc = s.enc := rfl
@[simp] theorem State.deliver_chunk (s : State) (c : Bytes) : (s.deliver c).chunk = s.chunk := rfl
@[simp] theorem State.deliver_off (s : State) (c : Bytes) : (s.deliver c).off = s.off := rfl
@[simp] theorem State.deliver_rx (s : State) (c : Bytes) : (s.deliver c).rx = s.rx ++ [c] := rfl
@[simp] theorem State.deliver_out (s : State) (c : Bytes) : (s.deliver c).out = s.out := rfl
@[simp] theorem State.deliver_tx (s : State) (c : Bytes) : (s.deliver c).tx = s.tx := rfl
@[simp] theorem State.deliver_portLog (s : State) (c : Bytes) :
    (s.deliver c).portLog = s.portLog := rfl
@[simp] theorem State.deliver_diag (s : State) (c : Bytes) : (s.deliver c).diag = s.diag := rfl
@[simp] theorem State.deliver_portTape (s : State) (c : Bytes) :
    (s.deliver c).portTape = s.portTape := rfl
@[simp] theorem State.deliver_draws (s : State) (c : Bytes) : (s.deliver c).draws = s.draws := rfl
@[simp] theorem State.deliver_resetReq (s : State) (c : Bytes) :
    (s.deliver c).resetReq = s.resetReq := rfl
@[simp] theorem State.deliver_resets (s : State) (c : Bytes) :
    (s.deliver c).resets = s.resets := rfl

@[simp] theorem State.requestReset_cfgIn (s : State) (r : ResetReq) :
    (s.requestReset r).cfgIn = s.cfgIn := rfl
@[simp] theorem State.requestReset_cfg (s : State) (r : ResetReq) :
    (s.requestReset r).cfg = s.cfg := rfl
@[simp] theorem State.requestReset_dec (s : State) (r : ResetReq) :
    (s.requestReset r).dec = s.dec := rfl
@[simp] theorem State.requestReset_enc (s : State) (r : ResetReq) :
    (s.requestReset r).enc = s.enc := rfl
@[simp] theorem State.requestReset_chunk (s : State) (r : ResetReq) :
    (s.requestReset r).chunk = s.chunk := rfl
@[simp] theorem State.requestReset_off (s : State) (r : ResetReq) :
    (s.requestReset r).off = s.off := rfl
@[simp] theorem State.requestReset_rx (s : State) (r : ResetReq) :
    (s.requestReset r).rx = s.rx := rfl
@[simp] theorem State.requestReset_out (s : State) (r : ResetReq) :
    (s.requestReset r).out = s.out := rfl
@[simp] theorem State.requestReset_tx (s : State) (r : ResetReq) :
    (s.requestReset r).tx = s.tx := rfl
@[simp] theorem State.requestReset_portLog (s : State) (r : ResetReq) :
    (s.requestReset r).portLog = s.portLog := rfl
@[simp] theorem State.requestReset_diag (s : State) (r : ResetReq) :
    (s.requestReset r).diag = s.diag := rfl
@[simp] theorem State.requestReset_portTape (s : State) (r : ResetReq) :
    (s.requestReset r).portTape = s.portTape := rfl
@[simp] theorem State.requestReset_draws (s : State) (r : ResetReq) :
    (s.requestReset r).draws = s.draws := rfl
@[simp] theorem State.requestReset_resetReq (s : State) (r : ResetReq) :
    (s.requestReset r).resetReq = r := rfl
@[simp] theorem State.requestReset_resets (s : State) (r : ResetReq) :
    (s.requestReset r).resets = s.resets := rfl

@[simp] theorem State.setCfgIn_cfgIn (s : State) (p : CfgParams) : (s.setCfgIn p).cfgIn = p := rfl
@[simp] theorem State.setCfgIn_cfg (s : State) (p : CfgParams) : (s.setCfgIn p).cfg = s.cfg := rfl
@[simp] theorem State.setCfgIn_dec (s : State) (p : CfgParams) : (s.setCfgIn p).dec = s.dec := rfl
@[simp] theorem State.setCfgIn_enc (s : State) (p : CfgParams) : (s.setCfgIn p).enc = s.enc := rfl
@[simp] theorem State.setCfgIn_chunk (s : State) (p : CfgParams) :
    (s.setCfgIn p).chunk = s.chunk := rfl
@[simp] theorem State.setCfgIn_off (s : State) (p : CfgParams) : (s.setCfgIn p).off = s.off := rfl
@[simp] theorem State.setCfgIn_rx (s : State) (p : CfgParams) : (s.setCfgIn p).rx = s.rx := rfl
@[simp] theorem State.setCfgIn_out (s : State) (p : CfgParams) : (s.setCfgIn p).out = s.out := rfl
@[simp] theorem State.setCfgIn_tx (s : State) (p : CfgParams) : (s.setCfgIn p).tx = s.tx := rfl
@[simp] theorem State.setCfgIn_portLog (s : State) (p : CfgParams) :
    (s.setCfgIn p).portLog = s.portLog := rfl
@[simp] theorem State.setCfgIn_diag (s : State) (p : CfgParams) :
    (s.setCfgIn p).diag = s.diag := rfl
@[simp] theorem State.setCfgIn_portTape (s : State) (p : CfgParams) :
    (s.setCfgIn p).portTape = s.portTape := rfl
@[simp] theorem State.setCfgIn_draws (s : State) (p : CfgParams) :
    (s.setCfgIn p).draws = s.draws := rfl
@[simp] theorem State.setCfgIn_resetReq (s : State) (p : CfgParams) :
    (s.setCfgIn p).resetReq = s.resetReq := rfl
@[simp] theorem State.setCfgIn_resets (s : State) (p : CfgParams) :
    (s.setCfgIn p).resets = s.resets := rfl

@[simp] theorem State.loseResponse_cfgIn (s : State) (l : List OutEvent) :
    (s.loseResponse l).cfgIn = s.cfgIn := rfl
@[simp] theorem State.loseResponse_cfg (s : State) (l : List OutEvent) :
    (s.loseResponse l).cfg = s.cfg := rfl
@[simp] theorem State.loseResponse_dec (s : State) (l : List OutEvent) :
    (s.loseResponse l).dec = s.dec := rfl
@[simp] theorem State.loseResponse_enc (s : State) (l : List OutEvent) :
    (s.loseResponse l).enc = s.enc := rfl
@[simp] theorem State.loseResponse_chunk (s : State) (l : List OutEvent) :
    (s.loseResponse l).chunk = s.chunk := rfl
@[simp] theorem State.loseResponse_off (s : State) (l : List OutEvent) :
    (s.loseResponse l).off = s.off := rfl
@[simp] theorem State.loseResponse_rx (s : State) (l : List OutEvent) :
    (s.loseResponse l).rx = s.rx := rfl
@[simp] theorem State.loseResponse_portTape (s : State) (l : List OutEvent) :
    (s.loseResponse l).portTape = s.portTape := rfl
@[simp] theorem State.loseResponse_draws (s : State) (l : List OutEvent) :
    (s.loseResponse l).draws = s.draws := rfl
@[simp] theorem State.loseResponse_resetReq (s : State) (l : List OutEvent) :
    (s.loseResponse l).resetReq = s.resetReq := rfl
@[simp] theorem State.loseResponse_resets (s : State) (l : List OutEvent) :
    (s.loseResponse l).resets = s.resets := rfl

@[simp] theorem State.takeReset_cfgIn (s : State) : (s.takeReset).cfgIn = s.cfgIn := rfl
@[simp] theorem State.takeReset_cfg (s : State) :
    (s.takeReset).cfg = latchCfg s.cfgIn s.resets := rfl
@[simp] theorem State.takeReset_dec (s : State) : (s.takeReset).dec = Dec.empty := rfl
@[simp] theorem State.takeReset_enc (s : State) : (s.takeReset).enc = [] := rfl
@[simp] theorem State.takeReset_chunk (s : State) : (s.takeReset).chunk = [] := rfl
@[simp] theorem State.takeReset_off (s : State) : (s.takeReset).off = 0 := rfl
@[simp] theorem State.takeReset_rx (s : State) : (s.takeReset).rx = s.rx := rfl
@[simp] theorem State.takeReset_out (s : State) : (s.takeReset).out = s.out := rfl
@[simp] theorem State.takeReset_tx (s : State) : (s.takeReset).tx = s.tx := rfl
@[simp] theorem State.takeReset_portLog (s : State) : (s.takeReset).portLog = s.portLog := rfl
@[simp] theorem State.takeReset_diag (s : State) : (s.takeReset).diag = s.diag := rfl
@[simp] theorem State.takeReset_portTape (s : State) : (s.takeReset).portTape = s.portTape := rfl
@[simp] theorem State.takeReset_draws (s : State) : (s.takeReset).draws = s.draws := rfl
@[simp] theorem State.takeReset_resetReq (s : State) : (s.takeReset).resetReq = .none := rfl
@[simp] theorem State.takeReset_resets (s : State) : (s.takeReset).resets = s.resets + 1 := rfl

@[simp] theorem State.answered_cfgIn (s : State) (m : Instr) : (s.answered m).cfgIn = s.cfgIn := rfl
@[simp] theorem State.answered_cfg (s : State) (m : Instr) : (s.answered m).cfg = s.cfg := rfl
@[simp] theorem State.answered_dec (s : State) (m : Instr) : (s.answered m).dec = s.dec := rfl
@[simp] theorem State.answered_enc (s : State) (m : Instr) : (s.answered m).enc = [] := rfl
@[simp] theorem State.answered_chunk (s : State) (m : Instr) : (s.answered m).chunk = s.chunk := rfl
@[simp] theorem State.answered_off (s : State) (m : Instr) : (s.answered m).off = s.off := rfl
@[simp] theorem State.answered_rx (s : State) (m : Instr) : (s.answered m).rx = s.rx := rfl
@[simp] theorem State.answered_out (s : State) (m : Instr) :
    (s.answered m).out = s.out ++ [.tx (wire (encode m))] := rfl
@[simp] theorem State.answered_tx (s : State) (m : Instr) :
    (s.answered m).tx = s.tx ++ [wire (encode m)] := by simp [State.tx]
@[simp] theorem State.answered_portLog (s : State) (m : Instr) :
    (s.answered m).portLog = s.portLog := by simp [State.portLog]
@[simp] theorem State.answered_diag (s : State) (m : Instr) :
    (s.answered m).diag = s.diag := by simp [State.diag]
@[simp] theorem State.answered_portTape (s : State) (m : Instr) :
    (s.answered m).portTape = s.portTape := rfl
@[simp] theorem State.answered_draws (s : State) (m : Instr) : (s.answered m).draws = s.draws := rfl
@[simp] theorem State.answered_resetReq (s : State) (m : Instr) :
    (s.answered m).resetReq = s.resetReq := rfl
@[simp] theorem State.answered_resets (s : State) (m : Instr) :
    (s.answered m).resets = s.resets := rfl

@[simp] theorem State.answeredFrame_cfgIn (s : State) (f : Frame) :
    (s.answeredFrame f).cfgIn = s.cfgIn := rfl
@[simp] theorem State.answeredFrame_cfg (s : State) (f : Frame) :
    (s.answeredFrame f).cfg = s.cfg := rfl
@[simp] theorem State.answeredFrame_dec (s : State) (f : Frame) :
    (s.answeredFrame f).dec = s.dec := rfl
@[simp] theorem State.answeredFrame_enc (s : State) (f : Frame) :
    (s.answeredFrame f).enc = [] := rfl
@[simp] theorem State.answeredFrame_chunk (s : State) (f : Frame) :
    (s.answeredFrame f).chunk = s.chunk := rfl
@[simp] theorem State.answeredFrame_off (s : State) (f : Frame) :
    (s.answeredFrame f).off = s.off := rfl
@[simp] theorem State.answeredFrame_rx (s : State) (f : Frame) :
    (s.answeredFrame f).rx = s.rx := rfl
@[simp] theorem State.answeredFrame_out (s : State) (f : Frame) :
    (s.answeredFrame f).out = s.out ++ [.tx (wire f.toBytes)] := rfl
@[simp] theorem State.answeredFrame_tx (s : State) (f : Frame) :
    (s.answeredFrame f).tx = s.tx ++ [wire f.toBytes] := by simp [State.tx]
@[simp] theorem State.answeredFrame_portLog (s : State) (f : Frame) :
    (s.answeredFrame f).portLog = s.portLog := by simp [State.portLog]
@[simp] theorem State.answeredFrame_diag (s : State) (f : Frame) :
    (s.answeredFrame f).diag = s.diag := by simp [State.diag]
@[simp] theorem State.answeredFrame_portTape (s : State) (f : Frame) :
    (s.answeredFrame f).portTape = s.portTape := rfl
@[simp] theorem State.answeredFrame_draws (s : State) (f : Frame) :
    (s.answeredFrame f).draws = s.draws := rfl
@[simp] theorem State.answeredFrame_resetReq (s : State) (f : Frame) :
    (s.answeredFrame f).resetReq = s.resetReq := rfl
@[simp] theorem State.answeredFrame_resets (s : State) (f : Frame) :
    (s.answeredFrame f).resets = s.resets := rfl

/-- A round whose response is lost: its port calls and DIAG events stay, what it put on TX does not
(70_reset_and_hazards.md R191). -/
theorem State.loseResponse_out {s : State} {before es : List OutEvent} (h : s.out = before ++ es) :
    (s.loseResponse before).out = before ++ es.filter fun e => e.message?.isNone := by
  simp [State.loseResponse, h]

theorem State.loseResponse_tx {s : State} {before es : List OutEvent} (h : s.out = before ++ es) :
    (s.loseResponse before).tx = before.filterMap OutEvent.message? := by
  rw [State.tx, State.loseResponse_out h, List.filterMap_append, filterMap_message?_filter,
    List.append_nil]

theorem State.loseResponse_portLog {s : State} {before es : List OutEvent}
    (h : s.out = before ++ es) : (s.loseResponse before).portLog = s.portLog := by
  rw [State.portLog, State.portLog, State.loseResponse_out h, h, List.filterMap_append,
    List.filterMap_append, filterMap_call?_filter]

theorem State.loseResponse_diag {s : State} {before es : List OutEvent} (h : s.out = before ++ es) :
    (s.loseResponse before).diag = s.diag := by
  rw [State.diag, State.diag, State.loseResponse_out h, h, List.filterMap_append,
    List.filterMap_append, filterMap_report?_filter]

end Sys2Proof.Machine
end

