-- ==== Sys2Proof/Laws/Transport.lean ====
section
/-! SUPPORT. What the codec's operations can answer (40_transport_codec.md R78 to R89). -/

namespace Sys2Proof

/-! ## Stuffing -/

theorem stuff_cases (b : Byte) :
    (b = bEND ∧ stuff b = [bESC, bESC_END]) ∨ (b = bESC ∧ stuff b = [bESC, bESC_ESC]) ∨
      (b ≠ bEND ∧ b ≠ bESC ∧ stuff b = [b]) := by
  unfold stuff
  by_cases h1 : b = bEND
  · exact .inl ⟨h1, by simp [h1]⟩
  · by_cases h2 : b = bESC
    · exact .inr (.inl ⟨h2, by simp [h2, bEND, bESC]⟩)
    · exact .inr (.inr ⟨h1, h2, by simp [h1, h2]⟩)

theorem stuff_length_le (b : Byte) : (stuff b).length ≤ 2 := by
  rcases stuff_cases b with ⟨-, h⟩ | ⟨-, h⟩ | ⟨-, -, h⟩ <;> simp [h]

theorem stuff_length_pos (b : Byte) : 1 ≤ (stuff b).length := by
  rcases stuff_cases b with ⟨-, h⟩ | ⟨-, h⟩ | ⟨-, -, h⟩ <;> simp [h]

theorem flatMap_stuff_length_le (r : Bytes) : (r.flatMap stuff).length ≤ 2 * r.length := by
  induction r with
  | nil => simp
  | cons b rest ih =>
    have := stuff_length_le b
    simp only [List.flatMap_cons, List.length_append, List.length_cons]
    omega

/-! ## Encoder -/

/-- An encoder with room for the whole stuffed input takes it whole. -/
theorem encFeedFrom_fits (cap k : Nat) (buf input : Bytes)
    (h : buf.length + (input.flatMap stuff).length ≤ cap) :
    encFeedFrom cap k buf input = (.ok (k + input.length), buf ++ input.flatMap stuff) := by
  induction input generalizing k buf with
  | nil => simp [encFeedFrom]
  | cons b rest ih =>
    simp only [List.flatMap_cons, List.length_append] at h
    rw [encFeedFrom, if_neg (by omega), ih _ _ (by simp only [List.length_append]; omega)]
    simp [Nat.add_assoc, Nat.add_comm 1]

/-- What `ENC.feed` leaves in its buffer, whatever it answers, is stuffed input behind the old
contents, within the capacity. -/
theorem encFeedFrom_cases (cap k : Nat) (buf input : Bytes) (hb : buf.length ≤ cap) :
    (encFeedFrom cap k buf input =
        (.ok (k + input.length), buf ++ input.flatMap stuff) ∧
      buf.length + (input.flatMap stuff).length ≤ cap) ∨
    ∃ n, n < input.length ∧
      encFeedFrom cap k buf input = (.bufferFull (k + n), buf ++ (input.take n).flatMap stuff) ∧
      buf.length + ((input.take n).flatMap stuff).length ≤ cap ∧
      cap < buf.length + ((input.take (n + 1)).flatMap stuff).length := by
  induction input generalizing k buf with
  | nil => exact .inl (by simpa [encFeedFrom] using hb)
  | cons b rest ih =>
    by_cases hfull : buf.length + (stuff b).length > cap
    · refine .inr ⟨0, by simp, ?_, ?_, ?_⟩
      · simp [encFeedFrom, hfull]
      · simpa using hb
      · simpa using hfull
    · rcases ih (k + 1) (buf ++ stuff b) (by simp only [List.length_append]; omega) with
        ⟨h, hl⟩ | ⟨n, hn, h, hl, hg⟩
      · refine .inl ⟨?_, ?_⟩
        · rw [encFeedFrom, if_neg hfull, h]
          simp [Nat.add_assoc, Nat.add_comm 1]
        · simpa [Nat.add_assoc] using hl
      · refine .inr ⟨n + 1, by simpa using hn, ?_, ?_, ?_⟩
        · rw [encFeedFrom, if_neg hfull, h]
          simp [Nat.add_assoc, Nat.add_comm 1]
        · simpa [Nat.add_assoc] using hl
        · simpa [Nat.add_assoc] using hg

theorem wire_length_le (r : Bytes) : (wire r).length ≤ 2 * r.length + 1 := by
  have := flatMap_stuff_length_le r
  simp only [wire, List.length_append, List.length_singleton]
  omega

/-! ## Decoder -/

/-- Offsets count on: feeding from offset `k` reports offset 0's answer moved by `k`. -/
def FeedResult.shift (k : Nat) : FeedResult → FeedResult
  | .ok n c => .ok (k + n) c
  | .err e n => .err e (k + n)

theorem decFeedFrom_shift (cap k j : Nat) (d : Dec) (input : Bytes) :
    decFeedFrom cap (k + j) d input =
      ((decFeedFrom cap j d input).1.shift k, (decFeedFrom cap j d input).2) := by
  induction input generalizing j d with
  | nil => simp [decFeedFrom, FeedResult.shift]
  | cons b rest ih =>
    simp only [decFeedFrom]
    cases byteClass d.esc b with
    | terminator => simp [FeedResult.shift, Nat.add_assoc]
    | enterEscape => simpa [Nat.add_assoc] using ih (j + 1) { d with esc := true }
    | badEscape => simp [FeedResult.shift]
    | data v =>
      by_cases hf : d.acc.length = cap
      · simp [hf, FeedResult.shift]
      · simpa [hf, Nat.add_assoc] using ih (j + 1) ⟨d.acc ++ [v], false⟩

/-- Feeding two pieces: the second is reached only when the first is used up without completing a
frame (R78, R79). -/
theorem decFeedFrom_append (cap k : Nat) (d : Dec) (xs ys : Bytes) :
    decFeedFrom cap k d (xs ++ ys) =
      match decFeedFrom cap k d xs with
      | (.ok n false, d') => decFeedFrom cap n d' ys
      | r => r := by
  induction xs generalizing k d with
  | nil => simp [decFeedFrom]
  | cons b rest ih =>
    simp only [List.cons_append, decFeedFrom]
    cases byteClass d.esc b with
    | terminator => simp
    | enterEscape => exact ih _ _
    | badEscape => simp
    | data v =>
      by_cases hf : d.acc.length = cap
      · simp [hf]
      · simpa [hf] using ih _ _

/-- What `DEC.feed` can answer: input used up, a frame completed at an `END`, or a failure at a byte of
the input. -/
theorem decFeedFrom_cases (cap k : Nat) (d : Dec) (input : Bytes) :
    (∃ d', decFeedFrom cap k d input = (.ok (k + input.length) false, d')) ∨
    (∃ n d', n < input.length ∧ input[n]? = some bEND ∧ d'.esc = false ∧
      decFeedFrom cap k d input = (.ok (k + n + 1) true, d')) ∨
    (∃ n e d', n < input.length ∧ decFeedFrom cap k d input = (.err e (k + n), d')) := by
  induction input generalizing k d with
  | nil => exact .inl ⟨d, by simp [decFeedFrom]⟩
  | cons b rest ih =>
    have lift : ∀ d₁, decFeedFrom cap k d (b :: rest) = decFeedFrom cap (k + 1) d₁ rest →
        (∃ d', decFeedFrom cap k d (b :: rest) = (.ok (k + (b :: rest).length) false, d')) ∨
        (∃ n d', n < (b :: rest).length ∧ (b :: rest)[n]? = some bEND ∧ d'.esc = false ∧
          decFeedFrom cap k d (b :: rest) = (.ok (k + n + 1) true, d')) ∨
        (∃ n e d', n < (b :: rest).length ∧
          decFeedFrom cap k d (b :: rest) = (.err e (k + n), d')) := by
      intro d₁ h
      rw [h]
      rcases ih (k + 1) d₁ with ⟨d', h'⟩ | ⟨n, d', hn, hb, he, h'⟩ | ⟨n, e, d', hn, h'⟩
      · exact .inl ⟨d', by rw [h']; simp [Nat.add_assoc, Nat.add_comm 1]⟩
      · refine .inr (.inl ⟨n + 1, d', by simpa using hn, by simpa using hb, he, ?_⟩)
        rw [h']
        simp [Nat.add_comm, Nat.add_left_comm]
      · refine .inr (.inr ⟨n + 1, e, d', by simpa using hn, ?_⟩)
        rw [h']
        simp [Nat.add_comm, Nat.add_left_comm]
    cases hc : byteClass d.esc b with
    | terminator =>
      have hb : d.esc = false ∧ b = bEND := by
        unfold byteClass at hc
        split at hc
        · rename_i he
          split at hc
          · exact ⟨he, by assumption⟩
          · split at hc <;> cases hc
        · split at hc
          · cases hc
          · split at hc <;> cases hc
      exact .inr (.inl ⟨0, d, by simp, by simp [hb.2], hb.1, by simp [decFeedFrom, hc]⟩)
    | enterEscape => exact lift { d with esc := true } (by simp [decFeedFrom, hc])
    | badEscape => exact .inr (.inr ⟨0, .badEscape, d, by simp, by simp [decFeedFrom, hc]⟩)
    | data v =>
      by_cases hf : d.acc.length = cap
      · exact .inr (.inr ⟨0, .bufferFull, d, by simp, by simp [decFeedFrom, hc, hf]⟩)
      · exact lift ⟨d.acc ++ [v], false⟩ (by simp [decFeedFrom, hc, hf])

/-- `DEC.feed` only appends, and never past the capacity. -/
theorem decFeedFrom_acc (cap k : Nat) (d : Dec) (input : Bytes) :
    (∃ more, (decFeedFrom cap k d input).2.acc = d.acc ++ more) ∧
      (d.acc.length ≤ cap → (decFeedFrom cap k d input).2.acc.length ≤ cap) := by
  induction input generalizing k d with
  | nil => exact ⟨⟨[], by simp [decFeedFrom]⟩, by simp [decFeedFrom]⟩
  | cons b rest ih =>
    simp only [decFeedFrom]
    cases byteClass d.esc b with
    | terminator => exact ⟨⟨[], by simp⟩, by simp⟩
    | enterEscape => exact ih _ _
    | badEscape => exact ⟨⟨[], by simp⟩, by simp⟩
    | data v =>
      by_cases hf : d.acc.length = cap
      · simp only [hf, if_true]
        exact ⟨⟨[], by simp⟩, id⟩
      · simp only [hf, if_false]
        obtain ⟨⟨more, hm⟩, hl⟩ := ih (k + 1) ⟨d.acc ++ [v], false⟩
        refine ⟨⟨v :: more, by simp [hm]⟩, fun h => hl ?_⟩
        simp only [List.length_append, List.length_singleton]
        omega

end Sys2Proof
end

