-- ==== Sys2Proof/Laws/Ops.lean ====
section
/-! SUPPORT. What each shared operation of the machine can do, said once (43_dispatcher.md R137, R151,
R156; 60_exceptions.md R174). -/

namespace Sys2Proof.Machine

/-! ## Sending -/

/-- A raw frame of at most 68 bytes leaves on TX (40_transport_codec.md R82: the block's own responses
never fail). -/
theorem State.sendRaw_fits (s : State) (raw : Bytes) (h : raw.length ≤ 68) :
    s.sendRaw raw = { s with enc := [], out := s.out ++ [.tx (wire raw)] } := by
  have hs := flatMap_stuff_length_le raw
  have hf : encFeed Config.encCap [] raw = (.ok raw.length, raw.flatMap stuff) := by
    have := encFeedFrom_fits Config.encCap 0 [] raw (by
      simp only [List.length_nil, Config.encCap]
      omega)
    simpa [encFeed] using this
  have hn : encFinish Config.encCap (raw.flatMap stuff) = (.ok 0, wire raw) := by
    unfold encFinish
    rw [if_neg (by simp only [Config.encCap]; omega)]
    rfl
  simp only [State.sendRaw, hf, hn]
  rfl

/-- A raw frame leaves on TX, or is dropped with a DIAG event; the encoder is empty after it. -/
theorem State.sendRaw_cases (s : State) (raw : Bytes) :
    s.sendRaw raw = { s with enc := [], out := s.out ++ [.tx (wire raw)] } ∨
      ∃ k, s.sendRaw raw = { s with enc := [], out := s.out ++ [.diag (.txDropped k)] } := by
  unfold State.sendRaw encFeed
  rcases encFeedFrom_cases Config.encCap 0 [] raw (by simp) with ⟨h, -⟩ | ⟨n, -, h, -, -⟩
  · simp only [h, List.nil_append]
    unfold encFinish
    by_cases hc : (raw.flatMap stuff).length + 1 > Config.encCap
    · simp only [if_pos hc]
      exact .inr ⟨0, rfl⟩
    · simp only [if_neg hc]
      exact .inl rfl
  · simp only [h]
    exact .inr ⟨0 + n, rfl⟩

theorem State.sendFrame_fits (s : State) (f : Frame) (h : f.payload.length ≤ Config.payloadCap) :
    s.sendFrame f = s.answeredFrame f :=
  s.sendRaw_fits _ (by rw [f.toBytes_length]; simp only [Config.payloadCap] at h; omega)

/-- A message with at most 64 payload bytes is answered (R134, R156). -/
theorem State.send_fits (s : State) (m : Instr) (h : m.payload.length ≤ Config.payloadCap) :
    s.send m = s.answered m :=
  s.sendFrame_fits m.toFrame h

/-! ## PORT -/

/-- A call sequence changes only the channel and the source of its answers; it makes its calls in
order, all of them if it answers values. -/
theorem State.portAll_cases (cs : List PortCall) (s : State) :
    ∃ (k : Nat) (log : List (PortCall × PortAnswer)), k ≤ cs.length ∧
      log.map Prod.fst = cs.take k ∧
      (s.portAll cs).2 =
        { s with
          portTape := s.portTape.drop k
          draws := s.draws + k
          out := s.out ++ log.map .port } ∧
      ∀ vs, (s.portAll cs).1 = some vs → k = cs.length ∧ vs.length = cs.length := by
  induction cs generalizing s with
  | nil => exact ⟨0, [], by simp [State.portAll]⟩
  | cons c rest ih =>
    cases ha : s.portAnswer c with
    | err => exact ⟨1, [(c, .err)], by simp [State.portAll, ha, State.afterPort]⟩
    | ok v =>
      obtain ⟨k, log, hk, hl, hs, hv⟩ := ih (s.afterPort c)
      refine ⟨k + 1, (c, .ok v) :: log, by simpa using hk, by simpa using hl, ?_, ?_⟩
      · rcases hp : (s.afterPort c).portAll rest with ⟨_ | vs, s'⟩ <;>
          simp only [hp] at hs <;>
          simp [State.portAll, ha, hp, hs, Nat.add_assoc, Nat.add_comm 1]
      · rcases hp : (s.afterPort c).portAll rest with ⟨_ | vs, s'⟩
        · simp [State.portAll, ha, hp]
        · have := hv vs (by simp [hp])
          simp [State.portAll, ha, hp, this]

/-! ## Failures and handlers -/

/-- A reason text within its limit makes a response that fits. -/
theorem Failure.response_fits (e : Failure) (r : Reasons) (h : reasonsLegal r = true) :
    (e.response r).payload.length ≤ Config.payloadCap := by
  have h' : r.tooShort.length ≤ 60 ∧ r.invalidArgs.length ≤ 60 ∧ r.badFrequency.length ≤ 60 ∧
      r.hwFailure.length ≤ 60 ∧ r.hwValueRange.length ≤ 60 := by
    simp only [reasonsLegal, List.all_cons, List.all_nil, Bool.and_true, Bool.and_eq_true,
      decide_eq_true_eq] at h
    exact h
  obtain ⟨h1, h2, h3, h4, h5⟩ := h'
  rcases e with ⟨_ | _ | _⟩ | _ | _ | _ | _ | _ | _ <;>
    simp only [Failure.response, Instr.payload, Config.payloadCap, List.length_nil] <;> omega

/-- A failure with legal reason texts: its DIAG events and its response (R174). -/
theorem State.fail_eq (s : State) (e : Failure) (h : reasonsLegal s.cfg.reason = true) :
    s.fail e = (s.emit (e.events.map .diag)).answered (e.response s.cfg.reason) :=
  State.send_fits _ _ (Failure.response_fits e _ h)

theorem cfgLegal_reason {p : CfgParams} (h : cfgLegal p = true) : reasonsLegal p.reason = true := by
  simp only [cfgLegal, Bool.and_eq_true] at h
  exact h.1.1.1.2

theorem cfgLegal_version {p : CfgParams} (h : cfgLegal p = true) :
    p.version.length ≤ Config.maxWirePayload := by
  simp only [cfgLegal, textOk, Bool.and_eq_true, decide_eq_true_eq] at h
  exact h.1.1.1.1.1.1

theorem cfgLegal_fsys {p : CfgParams} (h : cfgLegal p = true) : 1 ≤ p.fsys := by
  simp only [cfgLegal, Bool.and_eq_true, decide_eq_true_eq] at h
  exact h.1.1.1.1.2

theorem State.whenInstalled_installed (s : State) (i : Itf) (g : State → State)
    (h : s.cfg.itf = i) : s.whenInstalled i g = g s := if_pos h

theorem State.whenInstalled_other (s : State) (i : Itf) (g : State → State)
    (h : s.cfg.itf ≠ i) : s.whenInstalled i g = s.fail .notThisInterface := if_neg h

/-- One port call and its response (R137). -/
theorem State.callAndReply_eq (s : State) (c : PortCall) (reply : PortVal → Instr)
    (hr : reasonsLegal s.cfg.reason = true)
    (hp : ∀ v, (reply v).payload.length ≤ Config.payloadCap) :
    s.callAndReply c reply =
      match s.portAnswer c with
      | .err => (s.afterPort c).answered (.errGeneric s.cfg.reason.hwFailure)
      | .ok v => (s.afterPort c).answered (reply v) := by
  unfold State.callAndReply
  cases s.portAnswer c with
  | err => simp [State.fail_eq, hr, Failure.events, Failure.response, State.answered]
  | ok v => exact State.send_fits _ _ (hp v)

/-! ## Handlers of the command tables -/

theorem Val.toField_length (v : Val) (t : FieldTy) : (v.toField t).toBytes.length ≤ t.maxBytes := by
  cases t <;> simp only [Val.toField, FieldVal.toBytes, FieldTy.maxBytes, be16_length, be32_length,
    List.length_singleton, List.length_append, List.length_take, List.length_replicate, le_refl] <;> omega

theorem fieldsOf_length (env : List Val) (fields : List (FieldTy × Nat)) :
    ((fieldsOf env fields).flatMap FieldVal.toBytes).length ≤
      (fields.map fun x => x.1.maxBytes).sum := by
  induction fields with
  | nil => exact le_refl _
  | cons x rest ih =>
    have := Val.toField_length (valAt env x.2) x.1
    simp only [fieldsOf, List.map_cons, List.flatMap_cons, List.length_append, List.sum_cons] at ih ⊢
    omega

theorem Reasons.text_length (r : Reasons) (h : reasonsLegal r = true) (key : ReasonKey) :
    (r.text key).length ≤ 60 := by
  simp only [reasonsLegal, List.all_cons, List.all_nil, Bool.and_true, Bool.and_eq_true,
    decide_eq_true_eq] at h
  obtain ⟨h1, h2, h3, h4, h5⟩ := h
  cases key <;> assumption

/-- A legal reply has at most 60 payload bytes (R134). -/
theorem Reply.frame_length (t : CmdTable) (r : Reasons) (env : List Val) (p : Reply)
    (hr : reasonsLegal r = true) (hp : replyLegal t p = true) : (p.frame r env).payload.length ≤ 60 := by
  cases p with
  | good => exact Nat.zero_le _
  | value opcode fields =>
    simp only [replyLegal, Bool.and_eq_true, decide_eq_true_eq] at hp
    exact le_trans (fieldsOf_length env fields) hp.2
  | errGeneric key => exact Reasons.text_length r hr key
  | errInvalidArgs key => exact Reasons.text_length r hr key

/-- What a handler can do: calls of its own interface, none behind an `Err`, which HW_FAIL answers, and
DIAG reports, in the order of the handler; behind all of them one response (20_memory.md R50), of at
most 60 payload bytes if the handler and the texts are legal. -/
theorem State.runHandler_cases (itf : Itf) (h : Handler) (env : List Val) (s : State) :
    ∃ (log : List (PortCall × PortAnswer)) (events : List OutEvent) (f : Frame),
      s.runHandler itf h env =
        ({ s with
            portTape := s.portTape.drop log.length
            draws := s.draws + log.length
            out := s.out ++ events } : State).sendFrame f ∧
      events.filterMap OutEvent.call? = log ∧ (∀ e ∈ events, e.message? = none) ∧
      (∀ e ∈ log, ∃ op args res, e.1 = .table itf op args res) ∧
      (∀ k c, log[k]? = some (c, .err) →
        k + 1 = log.length ∧ f = (Instr.errGeneric s.cfg.reason.hwFailure).toFrame) ∧
      ∀ t, handlerLegal t h = true → reasonsLegal s.cfg.reason = true → f.payload.length ≤ 60 := by
  induction h generalizing env s with
  | reply r =>
    exact ⟨[], [], r.frame s.cfg.reason env, by simp [State.runHandler], rfl, by simp, by simp, by simp,
      fun t ht hr => Reply.frame_length t _ env r hr ht⟩
  | bind t rest ih => exact ih _ s
  | call op args res rest ih =>
    cases ha : s.portAnswer (.table itf op (fieldsOf env args) res) with
    | err =>
      refine ⟨[(.table itf op (fieldsOf env args) res, .err)],
        [.port (.table itf op (fieldsOf env args) res, .err)],
        (Instr.errGeneric s.cfg.reason.hwFailure).toFrame, ?_, rfl, by simp, by simp, ?_,
        fun t _ hr => Reasons.text_length _ hr .hwFailure⟩
      · simp [State.runHandler, ha, State.fail, State.afterPort, State.emit, Failure.events,
          Failure.response, State.send]
      · intro k c hk
        cases k with
        | zero => exact ⟨rfl, rfl⟩
        | succ k => simp at hk
    | ok v =>
      obtain ⟨log, events, f, he, hc, hm, hl, hf, hp⟩ :=
        ih (env ++ [Val.ofAnswer res v]) (s.afterPort (.table itf op (fieldsOf env args) res))
      refine ⟨(.table itf op (fieldsOf env args) res, .ok v) :: log,
        .port (.table itf op (fieldsOf env args) res, .ok v) :: events, f, ?_, by simp [hc],
        List.forall_mem_cons.2 ⟨rfl, hm⟩, ?_, ?_, hp⟩
      · simp only [State.runHandler, ha]
        rw [he]
        simp [State.afterPort, ha, Nat.add_assoc, Nat.add_comm 1]
      · rintro e (_ | ⟨_, h⟩)
        · exact ⟨_, _, _, rfl⟩
        · exact hl e h
      · intro k c hk
        cases k with
        | zero => simp at hk
        | succ k =>
          obtain ⟨h1, h2⟩ := hf k c (by simpa using hk)
          exact ⟨by simp [← h1], h2⟩
  | branch cond yes no ihy ihn =>
    by_cases hc : (valAt env cond).asBool
    · obtain ⟨log, events, f, he, ho, hm, hl, hf, hp⟩ := ihy env s
      refine ⟨log, events, f, by simpa [State.runHandler, hc] using he, ho, hm, hl, hf, fun t ht hr => ?_⟩
      simp only [handlerLegal, Bool.and_eq_true] at ht
      exact hp t ht.1 hr
    · obtain ⟨log, events, f, he, ho, hm, hl, hf, hp⟩ := ihn env s
      refine ⟨log, events, f, by simpa [State.runHandler, hc] using he, ho, hm, hl, hf, fun t ht hr => ?_⟩
      simp only [handlerLegal, Bool.and_eq_true] at ht
      exact hp t ht.2 hr
  | quantize target rest ih =>
    cases ht : frequencyTarget (BitVec.ofNat 32 (valAt env target).asNat) with
    | none =>
      exact ⟨[], [], (Instr.errInvalidArgs s.cfg.reason.badFrequency).toFrame,
        by simp [State.runHandler, ht, State.fail, State.emit, Failure.events, Failure.response,
          State.send], rfl, by simp, by simp, by simp,
        fun t _ hr => Reasons.text_length _ hr .badFrequency⟩
    | some q =>
      obtain ⟨log, events, f, he, hc, hm, hl, hf, hp⟩ :=
        ih (env ++ Val.ofQuant (quantize s.cfg.fsys q))
          (s.emitDiag (quantizerReport (quantize s.cfg.fsys q)))
      refine ⟨log, .diag (quantizerReport (quantize s.cfg.fsys q)) :: events, f, ?_,
        by simpa [List.filterMap_cons] using hc, List.forall_mem_cons.2 ⟨rfl, hm⟩, hl, hf, hp⟩
      simp only [State.runHandler, ht]
      rw [he]
      simp [State.emitDiag, State.emit]

/-! ## The cursor -/

theorem State.advance_cases (s : State) (n : Nat) :
    (s.off + n < s.chunk.length ∧ s.advance n = { s with off := s.off + n }) ∨
      (s.chunk.length ≤ s.off + n ∧ s.advance n = { s with chunk := [], off := 0 }) := by
  unfold State.advance
  by_cases h : s.off + n < s.chunk.length
  · exact .inl ⟨h, if_pos h⟩
  · exact .inr ⟨by omega, if_neg h⟩

end Sys2Proof.Machine
end

