-- ==== Sys2Proof/Laws/PerInstr.lean ====
section
/-! SUPPORT. What holds of every message, one lemma per constructor (42_command_model.md R133). -/

namespace Sys2Proof.Laws.DecodesBack

/-- The frame of a message carries that message, every field as it was. -/
def Statement (i : Instr) : Prop := i.toFrame.message = .ok i

theorem ping : Statement .ping := rfl
theorem itfType : Statement .itfType := rfl
theorem version : Statement .version := rfl
theorem idGet : Statement .idGet := rfl
theorem gpioDirSet (pin dir : Byte) : Statement (.gpioDirSet pin dir) := rfl
theorem gpioDirGet (pin : Byte) : Statement (.gpioDirGet pin) := rfl
theorem gpioWrite (pin value : Byte) : Statement (.gpioWrite pin value) := rfl
theorem gpioRead (pin : Byte) : Statement (.gpioRead pin) := rfl

theorem pwmSetDutyCycle (channel : Byte) (value : F32) :
    Statement (.pwmSetDutyCycle channel value) :=
  congrArg (fun v => Except.ok (Instr.pwmSetDutyCycle channel v)) (u32Of_split value)

theorem pwmGetDutyCycle (channel : Byte) : Statement (.pwmGetDutyCycle channel) := rfl

theorem pwmSetFrequency (channel : Byte) (value : F32) :
    Statement (.pwmSetFrequency channel value) :=
  congrArg (fun v => Except.ok (Instr.pwmSetFrequency channel v)) (u32Of_split value)

theorem pwmGetFrequency (channel : Byte) : Statement (.pwmGetFrequency channel) := rfl
theorem good : Statement .good := rfl
theorem errGeneric (reason : Bytes) : Statement (.errGeneric reason) := rfl
theorem errCRC : Statement .errCRC := rfl
theorem errUnknownCode : Statement .errUnknownCode := rfl
theorem errInvalidArgs (reason : Bytes) : Statement (.errInvalidArgs reason) := rfl
theorem errBusy : Statement .errBusy := rfl
theorem respVersion (version : Bytes) : Statement (.respVersion version) := rfl
theorem respItfType (tag : Byte) : Statement (.respItfType tag) := rfl
theorem respId (id : Id8) : Statement (.respId id) := rfl
theorem respGpioDir (pin dir : Byte) : Statement (.respGpioDir pin dir) := rfl
theorem respGpioValue (pin value : Byte) : Statement (.respGpioValue pin value) := rfl

theorem respPwmDuty (channel : Byte) (value : F32) : Statement (.respPwmDuty channel value) :=
  congrArg (fun v => Except.ok (Instr.respPwmDuty channel v)) (u32Of_split value)

theorem respPwmFreq (channel : Byte) (value : F32) : Statement (.respPwmFreq channel value) :=
  congrArg (fun v => Except.ok (Instr.respPwmFreq channel v)) (u32Of_split value)

end Sys2Proof.Laws.DecodesBack
end

