-- ==== Sys2Proof/Laws/Quantizer.lean ====
section
/-! SUPPORT. What the quantizer's search can return (44_frequency_quantizer.md R163 to R166). -/

namespace Sys2Proof

/-- The better of two candidates is one of them. -/
theorem better_cases (b : Option Cand) (c : Cand) : better b c = c ∨ b = some (better b c) := by
  cases b with
  | none => exact .inl rfl
  | some b =>
    by_cases h : c.err < b.err
    · exact .inl (if_pos h)
    · exact .inr (congrArg some (if_neg h).symm)

theorem better_le_new (b : Option Cand) (c : Cand) : (better b c).err ≤ c.err := by
  cases b with
  | none => exact le_refl _
  | some b =>
    by_cases h : c.err < b.err
    · simp [better, h]
    · have e : better (some b) c = b := if_neg h
      rw [e]
      exact not_lt.mp h

theorem better_le_old (b c : Cand) : (better (some b) c).err ≤ b.err := by
  by_cases h : c.err < b.err
  · simp [better, h, le_of_lt h]
  · simp [better, h]

/-- What a search from iteration `iter` with `more` iterations allowed after it returns: an iteration
number in that range; a candidate, the best one so far or one of its own; no worse than its first
candidate nor than the best so far; within the tolerance if it stops before the last iteration. -/
theorem search_cases (c : Coarse) (more iter : Nat) (lo hi : Int) (best : Option Cand) :
    iter ≤ (search c more iter lo hi best).1 ∧
    (search c more iter lo hi best).1 ≤ iter + more ∧
    ((∃ s, (search c more iter lo hi best).2 = candidate c s) ∨
      best = some (search c more iter lo hi best).2) ∧
    (search c more iter lo hi best).2.err ≤ (candidate c (searchPoint lo hi)).err ∧
    (∀ b, best = some b → (search c more iter lo hi best).2.err ≤ b.err) ∧
    ((search c more iter lo hi best).1 < iter + more →
      (search c more iter lo hi best).2.err ≤ Config.tol) := by
  have old : ∀ (best : Option Cand) (cand b : Cand), best = some b →
      (better best cand).err ≤ b.err := by
    rintro _ cand b rfl
    exact better_le_old b cand
  induction more generalizing iter lo hi best with
  | zero =>
    refine ⟨le_refl _, le_refl _, ?_, better_le_new _ _, old _ _, fun h => absurd h (by simp [search])⟩
    rcases better_cases best (candidate c (searchPoint lo hi)) with h | h
    · exact .inl ⟨_, h⟩
    · exact .inr h
  | succ more ih =>
    have step : ∀ lo' hi',
        search c (more + 1) iter lo hi best =
          search c more (iter + 1) lo' hi' (some (better best (candidate c (searchPoint lo hi)))) →
        iter ≤ (search c (more + 1) iter lo hi best).1 ∧
        (search c (more + 1) iter lo hi best).1 ≤ iter + (more + 1) ∧
        ((∃ s, (search c (more + 1) iter lo hi best).2 = candidate c s) ∨
          best = some (search c (more + 1) iter lo hi best).2) ∧
        (search c (more + 1) iter lo hi best).2.err ≤ (candidate c (searchPoint lo hi)).err ∧
        (∀ b, best = some b → (search c (more + 1) iter lo hi best).2.err ≤ b.err) ∧
        ((search c (more + 1) iter lo hi best).1 < iter + (more + 1) →
          (search c (more + 1) iter lo hi best).2.err ≤ Config.tol) := by
      intro lo' hi' e
      rw [e]
      obtain ⟨h1, h2, h3, -, h5, h6⟩ :=
        ih (iter + 1) lo' hi' (some (better best (candidate c (searchPoint lo hi))))
      have hb := h5 _ rfl
      refine ⟨by omega, by omega, ?_, le_trans hb (better_le_new _ _),
        fun b hbest => le_trans hb (old _ _ b hbest), fun h => h6 (by omega)⟩
      rcases h3 with h3 | h3
      · exact .inl h3
      · rcases better_cases best (candidate c (searchPoint lo hi)) with h | h
        · exact .inl ⟨_, (Option.some.inj h3).symm.trans h⟩
        · exact .inr (h.trans h3)
    by_cases ht : (candidate c (searchPoint lo hi)).err ≤ Config.tol
    · have e : search c (more + 1) iter lo hi best =
          (iter, better best (candidate c (searchPoint lo hi))) := by
        simp [search, ht]
      rw [e]
      refine ⟨le_refl _, by omega, ?_, better_le_new _ _, old _ _,
        fun _ => le_trans (better_le_new _ _) ht⟩
      rcases better_cases best (candidate c (searchPoint lo hi)) with h | h
      · exact .inl ⟨_, h⟩
      · exact .inr h
    · by_cases hf : c.target < (candidate c (searchPoint lo hi)).realF
      · exact step (searchPoint lo hi + 1) hi (by simp only [search, if_neg ht, if_pos hf])
      · exact step lo (searchPoint lo hi - 1) (by simp only [search, if_neg ht, if_neg hf])

end Sys2Proof
end

