-- ==== Sys2Proof/Laws/Step.lean ====
section
/-! SUPPORT. What one step can do (43_dispatcher.md R154, 70_reset_and_hazards.md R191). -/

namespace Sys2Proof.Machine

/-- A message of the table takes its meaning to a next state, whatever the state. -/
theorem exec_next (i : Instr) (s : State) : ∃ t, exec i s = .next t := by
  cases i <;> exact ⟨_, rfl⟩

theorem processFrame_next (f : Frame) (s : State) : ∃ t, processFrame f s = .next t := by
  unfold processFrame
  split
  · exact exec_next _ _
  · exact ⟨_, rfl⟩
  · exact ⟨_, rfl⟩

theorem handleFrame_next (raw : Bytes) (s : State) : ∃ t, handleFrame raw s = .next t := by
  unfold handleFrame
  split
  · exact ⟨_, rfl⟩
  · exact processFrame_next _ _

/-- What a step of the control loop can do. -/
theorem loopStep_cases (s : State) :
    (s.pending = [] ∧ s.rx = [] ∧ loopStep s = .next s) ∨
    (∃ c rest, s.pending = [] ∧ s.rx = c :: rest ∧ loopStep s = .next (s.takeChunk c rest)) ∨
    (∃ n d, s.pending ≠ [] ∧ decFeed Config.decCap s.dec s.pending = (.ok n false, d) ∧
      loopStep s = .next ((s.setDec d).advance n)) ∨
    (∃ n d t, s.pending ≠ [] ∧ decFeed Config.decCap s.dec s.pending = (.ok n true, d) ∧
      handleFrame d.acc (s.setDec d) = .next t ∧ loopStep s = .next (t.decReset.advance n)) ∨
    (∃ e k d, s.pending ≠ [] ∧ decFeed Config.decCap s.dec s.pending = (.err e k, d) ∧
      loopStep s = .next (((s.setDec d).transportFail e k).advance (k + 1))) := by
  cases hp : s.pending with
  | nil =>
    cases hr : s.rx with
    | nil => exact .inl ⟨rfl, rfl, by simp [loopStep, hp, hr]⟩
    | cons c rest => exact .inr (.inl ⟨c, rest, rfl, rfl, by simp [loopStep, hp, hr]⟩)
  | cons b rest =>
    refine .inr (.inr ?_)
    have hl : loopStep s = feedRound s := by simp [loopStep, hp]
    rw [hl, ← hp]
    unfold feedRound
    rcases hf : decFeed Config.decCap s.dec s.pending with ⟨r, d⟩
    rcases r with ⟨n, c⟩ | ⟨e, k⟩
    · cases c with
      | false => exact .inl ⟨n, d, by simp [hp], rfl, rfl⟩
      | true =>
        obtain ⟨t, ht⟩ := handleFrame_next d.acc (s.setDec d)
        exact .inr (.inl ⟨n, d, t, by simp [hp], rfl, ht, by simp [ht, mapNext]⟩)
    · exact .inr (.inr ⟨e, k, d, by simp [hp], rfl, rfl⟩)

theorem step_of_noReset (s : State) (h : s.resetReq = .none) : step s = loopStep s := by
  simp [step, controlStep, h]

theorem step_atOnce (s : State) (h : s.resetReq = .atOnce) : step s = .next s.takeReset := by
  simp [step, controlStep, h]

theorem step_beforeSend (s t : State) (h : s.resetReq = .beforeSend) (ht : loopStep s = .next t) :
    step s = .next (t.loseResponse s.out).takeReset := by
  simp [step, controlStep, h, ht, mapNext]

end Sys2Proof.Machine
end

