-- ==== Sys2Proof/Tests/Slice0.lean ====
section
/-! SUPPORT. Tests against the vectors of 95_test_vectors.md, and a witness for the hypotheses of each
statement. Each expected value is written out from the vector or the rule its comment names. -/

namespace Sys2Proof.Tests

open Sys2Proof Sys2Proof.Machine

set_option Elab.async false

/-! ## Well-formedness (30_encoding.md R62; 42_command_model.md R121, R124, R126) -/

theorem test_wf_text_of_60_bytes : (Instr.errGeneric (List.replicate 60 0x41)).wellFormed = true := by
  decide +kernel

theorem test_wf_refuses_long_errGeneric :
    (Instr.errGeneric (List.replicate 61 0x41)).wellFormed = false := by decide +kernel

theorem test_wf_refuses_long_errInvalidArgs :
    (Instr.errInvalidArgs (List.replicate 61 0x41)).wellFormed = false := by decide +kernel

theorem test_wf_refuses_long_respVersion :
    (Instr.respVersion (List.replicate 61 0x41)).wellFormed = false := by decide +kernel

theorem test_wf_refuses_bad_utf8_errGeneric : (Instr.errGeneric [0x41, 0xFF]).wellFormed = false := by
  decide +kernel

theorem test_wf_refuses_bad_utf8_errInvalidArgs :
    (Instr.errInvalidArgs [0xC3]).wellFormed = false := by decide +kernel

theorem test_wf_refuses_bad_utf8_respVersion :
    (Instr.respVersion [0xED, 0xA0, 0x80]).wellFormed = false := by decide +kernel

theorem test_wf_accepts_utf8 :
    (Instr.respVersion [0xC3, 0xA9, 0xE2, 0x82, 0xAC, 0xF0, 0x9F, 0x98, 0x80]).wellFormed = true := by
  decide +kernel

/-! ## Decoding and encoding: the raw frames of V51 to V71 -/

theorem test_decode_ping : decode [0x00, 0x00, 0x1D, 0x0F] = .ok (.ping) ∧ encode (.ping) = [0x00,
    0x00, 0x1D, 0x0F] := by
  decide +kernel

theorem test_decode_itfType : decode [0x00, 0x01, 0x0D, 0x2E] = .ok (.itfType) ∧ encode (.itfType) =
    [0x00, 0x01, 0x0D, 0x2E] := by
  decide +kernel

theorem test_decode_version : decode [0x00, 0x02, 0x3D, 0x4D] = .ok (.version) ∧ encode (.version) =
    [0x00, 0x02, 0x3D, 0x4D] := by
  decide +kernel

theorem test_decode_idGet : decode [0x00, 0x03, 0x2D, 0x6C] = .ok (.idGet) ∧ encode (.idGet) =
    [0x00, 0x03, 0x2D, 0x6C] := by
  decide +kernel

theorem test_decode_gpioDirSet : decode [0x01, 0x00, 0x02, 0x02, 0xB4, 0x54] = .ok (.gpioDirSet 2 2)
    ∧ encode (.gpioDirSet 2 2) = [0x01, 0x00, 0x02, 0x02, 0xB4, 0x54] := by
  decide +kernel

theorem test_decode_gpioDirGet : decode [0x01, 0x01, 0x02, 0xE8, 0xDF] = .ok (.gpioDirGet 2) ∧
    encode (.gpioDirGet 2) = [0x01, 0x01, 0x02, 0xE8, 0xDF] := by
  decide +kernel

theorem test_decode_gpioWrite : decode [0x01, 0x02, 0x02, 0x01, 0xEA, 0x57] = .ok (.gpioWrite 2 1) ∧
    encode (.gpioWrite 2 1) = [0x01, 0x02, 0x02, 0x01, 0xEA, 0x57] := by
  decide +kernel

theorem test_decode_gpioRead : decode [0x01, 0x03, 0x02, 0x8E, 0xBD] = .ok (.gpioRead 2) ∧ encode
    (.gpioRead 2) = [0x01, 0x03, 0x02, 0x8E, 0xBD] := by
  decide +kernel

theorem test_decode_pwmSetDutyCycle : decode [0x02, 0x00, 0x00, 0x3F, 0x00, 0x00, 0x00, 0x69, 0x2A]
    = .ok (.pwmSetDutyCycle 0 0x3F000000) ∧ encode (.pwmSetDutyCycle 0 0x3F000000) = [0x02, 0x00,
    0x00, 0x3F, 0x00, 0x00, 0x00, 0x69, 0x2A] := by
  decide +kernel

theorem test_decode_pwmGetDutyCycle : decode [0x02, 0x01, 0x00, 0x91, 0xCD] = .ok (.pwmGetDutyCycle
    0) ∧ encode (.pwmGetDutyCycle 0) = [0x02, 0x01, 0x00, 0x91, 0xCD] := by
  decide +kernel

theorem test_decode_pwmSetFrequency : decode [0x02, 0x02, 0x00, 0x44, 0x7A, 0x00, 0x00, 0xA1, 0xC9]
    = .ok (.pwmSetFrequency 0 0x447A0000) ∧ encode (.pwmSetFrequency 0 0x447A0000) = [0x02, 0x02,
    0x00, 0x44, 0x7A, 0x00, 0x00, 0xA1, 0xC9] := by
  decide +kernel

theorem test_decode_pwmGetFrequency : decode [0x02, 0x03, 0x00, 0xF7, 0xAF] = .ok (.pwmGetFrequency
    0) ∧ encode (.pwmGetFrequency 0) = [0x02, 0x03, 0x00, 0xF7, 0xAF] := by
  decide +kernel

theorem test_decode_good : decode [0xFF, 0xFF, 0x00, 0x00] = .ok (.good) ∧ encode (.good) = [0xFF,
    0xFF, 0x00, 0x00] := by
  decide +kernel

theorem test_decode_errCRC : decode [0xFF, 0xFD, 0x20, 0x42] = .ok (.errCRC) ∧ encode (.errCRC) =
    [0xFF, 0xFD, 0x20, 0x42] := by
  decide +kernel

theorem test_decode_errUnknownCode : decode [0xFF, 0xFC, 0x30, 0x63] = .ok (.errUnknownCode) ∧
    encode (.errUnknownCode) = [0xFF, 0xFC, 0x30, 0x63] := by
  decide +kernel

theorem test_decode_errBusy : decode [0xFF, 0xFA, 0x50, 0xA5] = .ok (.errBusy) ∧ encode (.errBusy) =
    [0xFF, 0xFA, 0x50, 0xA5] := by
  decide +kernel

theorem test_decode_respItfType : decode [0xFE, 0xFE, 0x02, 0x24, 0x43] = .ok (.respItfType 2) ∧
    encode (.respItfType 2) = [0xFE, 0xFE, 0x02, 0x24, 0x43] := by
  decide +kernel

theorem test_decode_respId : decode [0xFE, 0xFD, 0x01, 0x02, 0x03, 0x04, 0x05, 0x06, 0x07, 0x08,
    0xDF, 0x8E] = .ok (.respId ⟨1, 2, 3, 4, 5, 6, 7, 8⟩) ∧ encode (.respId ⟨1, 2, 3, 4, 5, 6, 7, 8⟩)
    = [0xFE, 0xFD, 0x01, 0x02, 0x03, 0x04, 0x05, 0x06, 0x07, 0x08, 0xDF, 0x8E] := by
  decide +kernel

theorem test_decode_respGpioDir : decode [0xFD, 0xFF, 0x02, 0x01, 0x9B, 0x2B] = .ok (.respGpioDir 2
    1) ∧ encode (.respGpioDir 2 1) = [0xFD, 0xFF, 0x02, 0x01, 0x9B, 0x2B] := by
  decide +kernel

theorem test_decode_respGpioValue : decode [0xFD, 0xFE, 0x02, 0x01, 0xAC, 0x1B] = .ok
    (.respGpioValue 2 1) ∧ encode (.respGpioValue 2 1) = [0xFD, 0xFE, 0x02, 0x01, 0xAC, 0x1B] := by
  decide +kernel

theorem test_decode_respPwmDuty : decode [0xFC, 0xFF, 0x00, 0x3F, 0x00, 0x00, 0x00, 0x20, 0x85] =
    .ok (.respPwmDuty 0 0x3F000000) ∧ encode (.respPwmDuty 0 0x3F000000) = [0xFC, 0xFF, 0x00, 0x3F,
    0x00, 0x00, 0x00, 0x20, 0x85] := by
  decide +kernel

theorem test_decode_respPwmFreq : decode [0xFC, 0xFE, 0x00, 0x44, 0x79, 0xFE, 0xFA, 0x01, 0x4D] =
    .ok (.respPwmFreq 0 0x4479FEFA) ∧ encode (.respPwmFreq 0 0x4479FEFA) = [0xFC, 0xFE, 0x00, 0x44,
    0x79, 0xFE, 0xFA, 0x01, 0x4D] := by
  decide +kernel

theorem test_decode_errGeneric : decode [0xFF, 0xFE, 0x66, 0x72, 0x61, 0x6D, 0x65, 0x20, 0x74, 0x6F,
    0x6F, 0x20, 0x73, 0x68, 0x6F, 0x72, 0x74, 0x22, 0x0B] = .ok (.errGeneric [0x66, 0x72, 0x61,
    0x6D, 0x65, 0x20, 0x74, 0x6F, 0x6F, 0x20, 0x73, 0x68, 0x6F, 0x72, 0x74]) ∧ encode (.errGeneric
    [0x66, 0x72, 0x61, 0x6D, 0x65, 0x20, 0x74, 0x6F, 0x6F, 0x20, 0x73, 0x68, 0x6F, 0x72, 0x74]) =
    [0xFF, 0xFE, 0x66, 0x72, 0x61, 0x6D, 0x65, 0x20, 0x74, 0x6F, 0x6F, 0x20, 0x73, 0x68, 0x6F, 0x72,
    0x74, 0x22, 0x0B] := by
  decide +kernel

theorem test_decode_errInvalidArgs : decode [0xFF, 0xFB, 0x69, 0x6E, 0x76, 0x61, 0x6C, 0x69, 0x64,
    0x20, 0x66, 0x72, 0x65, 0x71, 0x75, 0x65, 0x6E, 0x63, 0x79, 0x33, 0x46] = .ok (.errInvalidArgs
    [0x69, 0x6E, 0x76, 0x61, 0x6C, 0x69, 0x64, 0x20, 0x66, 0x72, 0x65, 0x71, 0x75, 0x65, 0x6E, 0x63,
    0x79]) ∧ encode (.errInvalidArgs [0x69, 0x6E, 0x76, 0x61, 0x6C, 0x69, 0x64, 0x20, 0x66, 0x72,
    0x65, 0x71, 0x75, 0x65, 0x6E, 0x63, 0x79]) = [0xFF, 0xFB, 0x69, 0x6E, 0x76, 0x61, 0x6C, 0x69,
    0x64, 0x20, 0x66, 0x72, 0x65, 0x71, 0x75, 0x65, 0x6E, 0x63, 0x79, 0x33, 0x46] := by
  decide +kernel

theorem test_decode_respVersion : decode [0xFE, 0xFF, 0x30, 0x2E, 0x31, 0x2E, 0x30, 0xC0, 0xB4] =
    .ok (.respVersion [0x30, 0x2E, 0x31, 0x2E, 0x30]) ∧ encode (.respVersion [0x30, 0x2E, 0x31,
    0x2E, 0x30]) = [0xFE, 0xFF, 0x30, 0x2E, 0x31, 0x2E, 0x30, 0xC0, 0xB4] := by
  decide +kernel

/-! ## Transport codec (V12 to V30; the stuffing case of section 2.6) -/

theorem test_wire_gpioWrite_stuffed : wire (encode (.gpioWrite 0xC0 0xDB)) = [0x01, 0x02, 0xDB,
    0xDC, 0xDB, 0xDD, 0xF0, 0x56, 0xC0] := by
  decide +kernel

theorem test_feed_empty : decFeed 64 Dec.empty [] = (.ok 0 false, ⟨[], false⟩) := by
  decide +kernel

theorem test_feed_stops_at_END : decFeed 64 Dec.empty [0x01, 0xDB, 0xDC, 0xDB, 0xDD, 0x02, 0xC0,
    0x55] = (.ok 7 true, ⟨[0x01, 0xC0, 0xDB, 0x02], false⟩) := by
  decide +kernel

theorem test_feed_escape_across_chunks : decFeed 64 Dec.empty [0xDB] = (.ok 1 false, ⟨[], true⟩) ∧
    decFeed 64 ⟨[], true⟩ [0xDC, 0xC0] = (.ok 2 true, ⟨[0xC0], false⟩) := by
  decide +kernel

theorem test_feed_bad_escape : decFeed 64 Dec.empty [0x01, 0xDB, 0x41] = (.err .badEscape 2,
    ⟨[0x01], true⟩) ∧ decFeed 64 Dec.empty [0xDB, 0xC0] = (.err .badEscape 1, ⟨[], true⟩) := by
  decide +kernel

theorem test_feed_bare_DC_DD : decFeed 64 Dec.empty [0xDC, 0xDD, 0xC0] = (.ok 3 true, ⟨[0xDC, 0xDD],
    false⟩) := by
  decide +kernel

theorem test_feed_full : (decFeed 64 Dec.empty (List.replicate 64 0x11 ++ [0x22])).1 = .err
    .bufferFull 64 ∧ (decFeed 64 Dec.empty (List.replicate 64 0x11 ++ [0xDB, 0xDC])).1 = .err
    .bufferFull 65 ∧ (decFeed 64 Dec.empty (List.replicate 64 0x11 ++ [0xDB, 0x41])).1 = .err
    .badEscape 65 ∧ decFeed 64 Dec.empty (List.replicate 64 0x11 ++ [0xC0]) = (.ok 65 true,
    ⟨List.replicate 64 0x11, false⟩) := by
  decide +kernel

theorem test_enc_feed_and_finish : encFeed 137 [] [0xC0, 0xDB, 0x11] = (.ok 3, [0xDB, 0xDC, 0xDB,
    0xDD, 0x11]) ∧ encFinish 137 [0xDB, 0xDC, 0xDB, 0xDD, 0x11] = (.ok 0, [0xDB, 0xDC, 0xDB, 0xDD,
    0x11, 0xC0]) := by
  decide +kernel

theorem test_enc_full : encFeed 4 [] [0x01, 0x02, 0x03, 0xC0] = (.bufferFull 3, [0x01, 0x02, 0x03])
    ∧ encFinish 3 [0x01, 0x02, 0x03] = (.bufferFull 0, [0x01, 0x02, 0x03]) := by
  decide +kernel

theorem test_enc_worst_case : (wire (List.replicate 68 0xC0)).length = 137 := by
  decide +kernel

/-! ## Checksum, frames, arguments (V31 to V50) -/

theorem test_crc : crc16 [] = 0xFFFF ∧ crc16 [0x00] = 0xE1F0 ∧ crc16 [0xC0] = 0x38BC ∧ crc16 [0x01,
    0x01, 0x02, 0x02] = 0x8364 := by
  decide +kernel

theorem test_parse_too_short : Frame.fromBytes concreteKnown [] = .error .tooShort ∧ Frame.fromBytes
    concreteKnown [0x01, 0x00, 0x02] = .error .tooShort := by
  decide +kernel

theorem test_parse_checksum : Frame.fromBytes concreteKnown [0x00, 0x00, 0x1D, 0x0E] = .error
    (.checksumMismatch 0x1D0F 0x1D0E) ∧ Frame.fromBytes concreteKnown [0x01, 0x01, 0x02, 0x02, 0xB4,
    0x54] = .error (.checksumMismatch 0x8364 0xB454) := by
  decide +kernel

theorem test_parse_unknown : Frame.fromBytes concreteKnown [0x00, 0xFF, 0x03, 0xFF] = .error
    (.unknownOpcode 0x00FF) := by
  decide +kernel

theorem test_parse_ok : Frame.fromBytes concreteKnown [0x01, 0x00, 0x02, 0x02, 0xB4, 0x54] = .ok
    ⟨0x0100, [0x02, 0x02]⟩ := by
  decide +kernel

theorem test_args : (ArgParser.new []).consumeU8 = none ∧ (ArgParser.new [0x12]).consumeU16 = none ∧
    (ArgParser.new [0x00, 0x01, 0xE2, 0x40]).consumeU32 = some (123456, ⟨[0x00, 0x01, 0xE2, 0x40],
    4⟩) ∧ (ArgParser.new [0x7F, 0xC0, 0x00, 0x00]).consumeF32 = some (0x7FC00000, ⟨[0x7F, 0xC0,
    0x00, 0x00], 4⟩) ∧ (⟨[0x61, 0x62], 1⟩ : ArgParser).consumeRest = ([0x62], ⟨[0x61, 0x62], 2⟩) :=
    by
  decide +kernel

/-! ## Quantizer and f32 (V72 to V76) -/

/-- The columns of V76, with the response pattern last. -/
def quantRow (f : F32) : Option (Nat × Bool × Nat × Nat × Nat × F32) :=
  match f32Value f with
  | .fin v =>
    let q := quantize 125000000 v
    some (q.top, q.pc, q.divInt, q.iterationsUsed, q.divFrac, rne32 q.achievedFrequency)
  | _ => none

theorem test_quantize_1000 : quantRow 0x447A0000 = some (62500, true, 1, 8, 0, 0x4479FEFA) := by
  decide +kernel

theorem test_quantize_5_6 : quantRow 0x40B33333 = some (65535, true, 255, 20, 0, 0x406F5A83) := by
  decide +kernel

theorem test_quantize_70e6 : quantRow 0x4C8583B0 = some (0, false, 1, 20, 13, 0x4C838A92) := by
  decide +kernel

theorem test_quantize_smallest : quantRow 0x00000001 = some (65535, true, 255, 20, 15, 0x406E7A10)
    := by
  decide +kernel

theorem test_quantize_above_62_5e6 : quantRow 0x4C6E6B29 = some (0, false, 1, 20, 15, 0x4C761C08) :=
    by
  decide +kernel

theorem test_quantize_largest : quantRow 0x7F7FFFFF = some (0, false, 1, 20, 0, 0x4CEE6B28) := by
  decide +kernel

/-! ## One step of the machine (V77 to V90) -/

/-- A build that installs `itf`, with `chunk` in progress and port answers `answers`. -/
def testState (itf : Itf) (chunk : Bytes) (answers : List PortAnswer) : State :=
  let p := Config.paramsFor itf
  { State.powerOn p with
    cfg := { p with deviceId := ⟨1, 2, 3, 4, 5, 6, 7, 8⟩ }
    chunk := chunk
    portTape := answers }

/-- Whether one step puts exactly `tx` on TX and makes exactly the calls `calls`. -/
def stepGives (s : State) (tx : Bytes) (calls : List PortCall) : Bool :=
  match step s with
  | .next t => decide (t.tx = [tx]) && decide (t.portLog.map Prod.fst = calls)
  | _ => false

/-- Whether one step puts exactly `diag` on DIAG. -/
def stepReports (s : State) (diag : List DiagEvent) : Bool :=
  match step s with
  | .next t => decide (t.diag = diag)
  | _ => false

theorem test_step_ping : stepGives (testState .uart [0x00, 0x00, 0x1D, 0x0F, 0xC0] []) [0xFF, 0xFF,
    0x00, 0x00, 0xC0] [] = true := by
  decide +kernel

theorem test_step_ping_trailing : stepGives (testState .gpio [0x00, 0x00, 0x01, 0x02, 0x97, 0xB3,
    0xC0] []) [0xFF, 0xFF, 0x00, 0x00, 0xC0] [] = true := by
  decide +kernel

theorem test_step_itfType : stepGives (testState .gpio [0x00, 0x01, 0x0D, 0x2E, 0xC0] []) [0xFE,
    0xFE, 0x01, 0x14, 0x20, 0xC0] [] = true := by
  decide +kernel

theorem test_step_version : stepGives (testState .i2c [0x00, 0x02, 0x3D, 0x4D, 0xC0] []) [0xFE,
    0xFF, 0x30, 0x2E, 0x31, 0x2E, 0x30, 0xDB, 0xDC, 0xB4, 0xC0] [] = true := by
  decide +kernel

theorem test_step_idGet : stepGives (testState .pwm [0x00, 0x03, 0x2D, 0x6C, 0xC0] []) [0xFE, 0xFD,
    0x01, 0x02, 0x03, 0x04, 0x05, 0x06, 0x07, 0x08, 0xDF, 0x8E, 0xC0] [] = true := by
  decide +kernel

theorem test_step_gpioDirSet : stepGives (testState .gpio [0x01, 0x00, 0x02, 0x02, 0xB4, 0x54, 0xC0]
    [.okNum 0]) [0xFF, 0xFF, 0x00, 0x00, 0xC0] [.dirSet 2 2] = true := by
  decide +kernel

theorem test_step_gpioDirSet_short : stepGives (testState .gpio [0x01, 0x00, 0x02, 0xDB, 0xDD, 0xEE,
    0xC0] []) [0xFF, 0xFB, 0x69, 0x6E, 0x76, 0x61, 0x6C, 0x69, 0x64, 0x20, 0x61, 0x72, 0x67, 0x75,
    0x6D, 0x65, 0x6E, 0x74, 0x73, 0xD9, 0x76, 0xC0] [] = true := by
  decide +kernel

theorem test_step_gpioDirGet : stepGives (testState .gpio [0x01, 0x01, 0x02, 0xE8, 0xDF, 0xC0]
    [.okNum 1]) [0xFD, 0xFF, 0x02, 0x01, 0x9B, 0x2B, 0xC0] [.dirGet 2] = true := by
  decide +kernel

theorem test_step_gpioWrite : stepGives (testState .gpio [0x01, 0x02, 0x02, 0x01, 0xEA, 0x57, 0xC0]
    [.err]) [0xFF, 0xFE, 0x68, 0x61, 0x72, 0x64, 0x77, 0x61, 0x72, 0x65, 0x20, 0x65, 0x72, 0x72,
    0x6F, 0x72, 0x8A, 0xD3, 0xC0] [.pinWrite 2 1] = true := by
  decide +kernel

theorem test_step_gpioRead : stepGives (testState .gpio [0x01, 0x03, 0x02, 0x8E, 0xBD, 0xC0] [.okNum
    1]) [0xFD, 0xFE, 0x02, 0x01, 0xAC, 0x1B, 0xC0] [.pinRead 2] = true := by
  decide +kernel

theorem test_step_pwmSetDutyCycle : stepGives (testState .pwm [0x02, 0x00, 0x00, 0x3F, 0x00, 0x00,
    0x00, 0x69, 0x2A, 0xC0] [.okNum 0]) [0xFF, 0xFF, 0x00, 0x00, 0xC0] [.setDuty 0 0x3F000000] =
    true := by
  decide +kernel

theorem test_step_pwmGetDutyCycle : stepGives (testState .pwm [0x02, 0x01, 0x00, 0x91, 0xCD, 0xC0]
    [.okNum 0x3F000000]) [0xFC, 0xFF, 0x00, 0x3F, 0x00, 0x00, 0x00, 0x20, 0x85, 0xC0] [.getDuty 0] =
    true := by
  decide +kernel

theorem test_step_pwmGetDutyCycle_not_installed : stepGives (testState .gpio [0x02, 0x01, 0x00,
    0x91, 0xCD, 0xC0] []) [0xFF, 0xFC, 0x30, 0x63, 0xC0] [] = true := by
  decide +kernel

theorem test_step_pwmSetFrequency : stepGives (testState .pwm [0x02, 0x02, 0x03, 0x4C, 0x85, 0x83,
    0xB0, 0xEC, 0xAB, 0xC0] [.okNum 0, .okNum 0, .okNum 0, .okNum 0]) [0xFC, 0xFE, 0x03, 0x4C, 0x83,
    0x8A, 0x92, 0x67, 0xFC, 0xC0] [.setTop 3 0, .setDivInt 3 1, .setDivFrac 3 13, .setPhaseCorrect 3
    false] = true := by
  decide +kernel

theorem test_step_pwmSetFrequency_NaN : stepGives (testState .pwm [0x02, 0x02, 0x03, 0x7F, 0xDB,
    0xDC, 0x00, 0x00, 0x44, 0xD3, 0xC0] []) [0xFF, 0xFB, 0x69, 0x6E, 0x76, 0x61, 0x6C, 0x69, 0x64,
    0x20, 0x66, 0x72, 0x65, 0x71, 0x75, 0x65, 0x6E, 0x63, 0x79, 0x33, 0x46, 0xC0] [] = true := by
  decide +kernel

theorem test_step_pwmGetFrequency : stepGives (testState .pwm [0x02, 0x03, 0x00, 0xF7, 0xAF, 0xC0]
    [.okNum 62500, .okNum 1, .okNum 0, .okNum 1]) [0xFC, 0xFE, 0x00, 0x44, 0x79, 0xFE, 0xFA, 0x01,
    0x4D, 0xC0] [.getTop 0, .getDivInt 0, .getDivFrac 0, .getPhaseCorrect 0] = true := by
  decide +kernel

theorem test_step_pwmGetFrequency_range : stepGives (testState .pwm [0x02, 0x03, 0x03, 0xC7, 0xCC,
    0xC0] [.okNum 100, .okNum 0, .okNum 3, .okNum 0]) [0xFF, 0xFE, 0x68, 0x61, 0x72, 0x64, 0x77,
    0x61, 0x72, 0x65, 0x20, 0x76, 0x61, 0x6C, 0x75, 0x65, 0x20, 0x6F, 0x75, 0x74, 0x20, 0x6F, 0x66,
    0x20, 0x72, 0x61, 0x6E, 0x67, 0x65, 0x8D, 0x2E, 0xC0] [.getTop 3, .getDivInt 3, .getDivFrac 3,
    .getPhaseCorrect 3] = true := by
  decide +kernel

/-- Every status code and response, received (V84, R73). -/
theorem test_step_responses : ([.good, .errCRC, .errUnknownCode, .errBusy, .respItfType 2, .respId
    ⟨1, 2, 3, 4, 5, 6, 7, 8⟩, .respGpioDir 2 1, .respGpioValue 2 1, .respPwmDuty 0 0x3F000000,
    .respPwmFreq 0 0x4479FEFA, .errGeneric [0x41], .errInvalidArgs [], .respVersion [0x30]] : List
    Instr).all (fun i => stepGives (testState .gpio (wire (encode i)) []) [0xFF, 0xFC, 0x30, 0x63,
    0xC0] []) = true := by
  decide +kernel

/-- The report of V90. -/
theorem test_report : stepReports (testState .pwm [0x02, 0x02, 0x03, 0x4C, 0x85, 0x83, 0xB0, 0xEC,
    0xAB, 0xC0] [.err]) [.quantizerReport (25 / 14) (29 / 16) 0 20 (2000000000 / 29) 13 1] = true :=
    by
  decide +kernel

/-- R50, R169 on the exchange of V90: report, calls in order up to the first `Err`, then the message. -/
theorem test_output_order :
    (match step (testState .pwm [0x02, 0x02, 0x03, 0x4C, 0x85, 0x83, 0xB0, 0xEC, 0xAB, 0xC0]
        [.okNum 0, .err]) with
      | .next t => decide (t.out =
          [.diag (.quantizerReport (25 / 14) (29 / 16) 0 20 (2000000000 / 29) 13 1),
            .port (.setTop 3 0, .okNum 0), .port (.setDivInt 3 1, .err),
            .tx (wire (encode (.errGeneric Config.defaultReasons.hwFailure)))])
      | _ => false) = true := by
  decide +kernel

/-- V80: the bad escape of the first round. -/
theorem test_transport_error : stepReports (testState .gpio [0x01, 0xDB, 0x41, 0x00, 0x00, 0x1D,
    0x0F, 0xC0] []) [.transportError .badEscape 2] = true := by
  decide +kernel

/-- V4. -/
theorem test_unknown_opcode : stepReports (testState .gpio [0x00, 0xFF, 0x03, 0xFF, 0xC0] [])
    [.frameError (.unknownOpcode 0x00FF)] = true := by
  decide +kernel

/-- A UART table in the form of log entry 4. Its requests: one call and one value response; the handler
of PwmSetFrequency (43_dispatcher.md R149) with the operations 1 to 4 for the four `set_*` calls; one
that writes a byte string, refuses an answer over 15 and returns a byte string read. -/
def uartTable : CmdTable :=
  ⟨[⟨0x1000, [.u8], .call 7 [(.u8, 0)] .u16 (.reply (.value 0xEFFF [(.u8, 0), (.u16, 1)]))⟩,
    ⟨0x1001, [.u8, .f32], .quantize 1 (.call 1 [(.u8, 0), (.u16, 4)] .none (.call 2 [(.u8, 0), (.u8, 6)]
      .none (.call 3 [(.u8, 0), (.u8, 7)] .none (.call 4 [(.u8, 0), (.u8, 5)] .none
        (.bind (.f32Round 9) (.reply (.value 0xEFFE [(.u8, 0), (.f32, 14)])))))))⟩,
    ⟨0x1002, [.text], .call 8 [(.text, 0)] .u8 (.bind (.const (.num 15)) (.bind (.compare .lt 2 1)
      (.branch 3 (.reply (.errGeneric .hwValueRange))
        (.call 9 [] (.bytes 60) (.reply (.value 0xEFFD [(.text, 4)]))))))⟩],
    [⟨0xEFFF, [.u8, .u16]⟩, ⟨0xEFFE, [.u8, .f32]⟩, ⟨0xEFFD, [.text]⟩]⟩

/-- A UART build with that table. -/
def uartState (chunk : Bytes) (answers : List PortAnswer) : State :=
  let s := testState .uart chunk answers
  { s with cfg := { s.cfg with uartCmds := uartTable } }

/-- The first message on TX and the operations called when `f` is processed in a UART build. -/
def tableGives (f : Frame) (answers : List PortAnswer) : List Bytes × List Nat :=
  match processFrame f (uartState [] answers) with
  | .next t =>
    (t.tx, t.portLog.map fun e =>
      match e.1 with
      | .table _ op _ _ => op
      | _ => 0)
  | _ => ([], [])

/-- R151: decoded by its layout, one call, one response. -/
theorem test_table_value : tableGives ⟨0x1000, [5]⟩ [.okNum 0x1234] =
    ([wire (Frame.toBytes ⟨0xEFFF, [5, 0x12, 0x34]⟩)], [7]) := by decide +kernel

/-- R149 as a table's handler: the answer and the calls of V90, the refusal of V86, the failed call. -/
theorem test_table_frequency :
    tableGives ⟨0x1001, [3, 0x4C, 0x85, 0x83, 0xB0]⟩ [.okNum 0, .okNum 0, .okNum 0, .okNum 0] =
      ([wire (Frame.toBytes ⟨0xEFFE, [3, 0x4C, 0x83, 0x8A, 0x92]⟩)], [1, 2, 3, 4]) ∧
    tableGives ⟨0x1001, [3, 0x7F, 0xC0, 0, 0]⟩ [] =
      ([wire (encode (.errInvalidArgs Config.defaultReasons.badFrequency))], []) ∧
    tableGives ⟨0x1001, [3, 0x4C, 0x85, 0x83, 0xB0]⟩ [.okNum 0, .err] =
      ([wire (encode (.errGeneric Config.defaultReasons.hwFailure))], [1, 2]) := by decide +kernel

/-- A refused range, and a byte string read. -/
theorem test_table_bytes :
    tableGives ⟨0x1002, [1, 2]⟩ [.okNum 16] =
      ([wire (encode (.errGeneric Config.defaultReasons.hwValueRange))], [8]) ∧
    tableGives ⟨0x1002, [1, 2]⟩ [.okNum 15, .ok ⟨0, [7, 8]⟩] =
      ([wire (Frame.toBytes ⟨0xEFFD, [7, 8]⟩)], [8, 9]) := by decide +kernel

/-! ## Table words and the first instruction after reset -/

theorem test_tableWord : decodeTableWord 16 0x0100 = some (.gpioDirSet 0 0) ∧
    decodeTableWord 16 0xFFFE = some (.errGeneric []) ∧ decodeTableWord 16 0x0300 = none := by
  decide +kernel

theorem test_first_instruction :
    stepGives (State.reset.withFetchWord 16 0x0000) [0xFF, 0xFF, 0x00, 0x00, 0xC0] [] = true := by
  decide +kernel

theorem test_host_decodes_responses :
    responseFromFrame (uartState [] []).cfg .gpio (Instr.respGpioDir 2 1).toFrame =
        .ok (.row (.respGpioDir 2 1)) ∧
      responseFromFrame (uartState [] []).cfg .pwm (Instr.respGpioDir 2 1).toFrame =
        .error .notAResponse ∧
      responseFromFrame (uartState [] []).cfg .uart ⟨0xEFFF, [5, 0x12, 0x34]⟩ =
        .ok (.response ⟨0xEFFF, [.u8, .u16]⟩ [.u8 5, .u16 0x1234]) := by
  decide +kernel

/-! ## Witnesses: states and operands that meet the hypotheses of each statement -/

theorem witness_EncodedMessageDecodes :
    (Instr.respVersion (List.replicate 60 0x41)).wellFormed = true := by decide +kernel

theorem witness_MessageFrameRoundTrip :
    (⟨0x0101, [2]⟩ : Frame).message = .ok (.gpioDirGet 2) ∧
      (⟨0x0101, [2, 9]⟩ : Frame).message = .ok (.gpioDirGet 2) := by decide +kernel

theorem witness_FrameSurvivesSerialisation :
    concreteKnown (⟨0xFFFE, List.replicate 64 0xC0⟩ : Frame).opcode = true ∧
      (⟨0xFFFE, List.replicate 64 0xC0⟩ : Frame).payload.length ≤ Config.payloadCap ∧
      (⟨0xFFFE, List.replicate 60 0xC0⟩ : Frame).payload.length ≤ 60 := by decide +kernel

theorem witness_SingleBitFlipIsCaught :
    0 < (Frame.toBytes ⟨0, []⟩).length ∧ 3 < (Frame.toBytes ⟨0, []⟩).length ∧ 0 < 8 ∧ 7 < 8 := by
  decide +kernel

theorem witness_LeftoverPayloadIsIgnored :
    FieldTy.text ∉ Op.pwmSetDutyCycle.layout ∧
      Op.pwmSetDutyCycle.decodeArgs (ArgParser.new [1, 2, 3, 4, 5]) =
        some (.pwmSetDutyCycle 1 0x02030405) ∧
      FieldTy.text ∉ Op.ping.layout ∧ Op.ping.decodeArgs (ArgParser.new []) = some .ping := by
  decide +kernel

theorem witness_KnownOpcodes :
    (testState .gpio [] []).cfg.uartCmds = Config.emptyTable ∧
      (testState .gpio [] []).cfg.i2cCmds = Config.emptyTable ∧ highByte 0x1000 ∈ [0x10#8, 0x3B, 0xEF] ∧
      highByte 0xEFFF ∈ [0x10#8, 0x3B, 0xEF] := by decide +kernel

theorem witness_EveryKnownOpcodeHasCategory :
    cfgLegal (uartState [] []).cfg.toCfgParams = true ∧
      knownOpcode (uartState [] []).cfg 0x1000 = true ∧
      knownOpcode (uartState [] []).cfg 0xEFFF = true ∧
      knownOpcode (uartState [] []).cfg 0x0000 = true := by decide +kernel

theorem witness_EncoderProducesWireForm :
    encFeed 6 [] [0xC0, 0xDB, 0x11] = (.ok 3, [0xDB, 0xDC, 0xDB, 0xDD, 0x11]) ∧
      encFinish 6 [0xDB, 0xDC, 0xDB, 0xDD, 0x11] = (.ok 0, [0xDB, 0xDC, 0xDB, 0xDD, 0x11, 0xC0]) := by
  decide +kernel

theorem witness_SlipRoundTrip :
    (List.replicate 64 0xC0#8).length ≤ Config.decCap ∧
      Config.decCap < (List.replicate 65 0xC0#8).length := by decide +kernel

theorem witness_BadEscapeIsRejected :
    decFeed 0 Dec.empty [] = (.ok ([] : Bytes).length false, Dec.empty) ∧ Dec.empty.esc = false ∧
      0xC0#8 ≠ 0xDC ∧ 0xC0#8 ≠ 0xDD ∧
      decFeed 1 Dec.empty [0x01] = (.ok [0x01#8].length false, ⟨[0x01], false⟩) := by decide +kernel

theorem witness_BuffersKeepTheirCapacity :
    (⟨[0x11], false⟩ : Dec).acc.length ≤ 1 ∧ byteClass false 0x22 = .data 0x22 ∧
      byteClass true 0xDC = .data 0xC0 ∧ ([0x11#8]).length ≤ 1 ∧
      3 < [0x01#8, 0x02].length + (stuff 0xC0).length ∧
      Frame.fromBytes concreteKnown [0x00, 0x00, 0x1D, 0x0F] = .ok ⟨0, []⟩ ∧
      concreteKnown 0xFFFE = true ∧
      Config.payloadCap < (⟨0xFFFE, List.replicate 65 0⟩ : Frame).payload.length := by decide +kernel

theorem witness_OnlyFittingResponsesLeave :
    (wire (List.replicate 68 0xC0)).length ≤ Config.encCap ∧
      Config.encCap < (wire (List.replicate 137 0x00)).length ∧
      Config.encCap < (wire (List.replicate 69 0xC0)).length := by decide +kernel

theorem witness_GenericRequestsAreAnswered : (testState .gpio [] []).cfg.version.length ≤ 60 := by
  decide +kernel

theorem witness_IdGetAnswersDeviceId :
    (testState .gpio [] []).resetReq = .none ∧
      step (testState .gpio [] []) = .next (testState .gpio [] []) := ⟨rfl, rfl⟩

/-- A GPIO build whose next port answer is `Ok(1)`, and one whose next answer is `Err`. -/
theorem witness_gpio_requests :
    (testState .gpio [] [.okNum 1]).cfg.itf = .gpio ∧
      reasonsLegal (testState .gpio [] [.okNum 1]).cfg.reason = true ∧
      (testState .gpio [] [.okNum 1]).portAnswer (.pinRead 2) = .okNum 1 ∧
      (testState .gpio [] [.err]).portAnswer (.dirSet 2 2) = .err := by decide +kernel

/-- A PWM build whose next port answer is `Ok(1)`, and one whose next answer is `Err`. -/
theorem witness_pwm_requests :
    (testState .pwm [] [.okNum 1]).cfg.itf = .pwm ∧
      reasonsLegal (testState .pwm [] [.okNum 1]).cfg.reason = true ∧
      (testState .pwm [] [.okNum 1]).portAnswer (.getDuty 2) = .okNum 1 ∧
      (testState .pwm [] [.err]).portAnswer (.setDuty 2 2) = .err := by decide +kernel

/-- Targets of each clause: NaN, both infinities, the two zeros, the smallest and largest positive. -/
theorem witness_PwmSetFrequencyCommits :
    f32Value 0x7FC00000 = .nan ∧ f32Value 0x7F800000 = .inf false ∧ f32Value 0xFF800000 = .inf true ∧
      f32Value 0x00000000 = .fin 0 ∧ f32Value 0x80000000 = .fin 0 ∧ (0 : Rat) ≤ 0 ∧
      f32Value 0x00000001 = .fin (1 / 2 ^ 149) ∧ (0 : Rat) < 1 / 2 ^ 149 := by decide +kernel

theorem witness_PwmGetFrequencyReadsBack :
    ((testState .pwm [] [.okNum 1, .err]).portAll (readCalls 0)).1 = none ∧
      ((testState .pwm [] [.okNum 65535, .okNum 255, .okNum 15, .okNum 1]).portAll (readCalls 0)).1 =
        some [⟨65535, []⟩, ⟨255, []⟩, ⟨15, []⟩, ⟨1, []⟩] ∧
      ((testState .pwm [] [.okNum 0, .okNum 0, .okNum 16, .okNum 0]).portAll (readCalls 0)).1 =
        some [⟨0, []⟩, ⟨0, []⟩, ⟨16, []⟩, ⟨0, []⟩] := by decide +kernel

theorem witness_UnservedMessagesAreUnknown :
    Instr.good.op.requestSet = none ∧
      (Instr.pwmGetDutyCycle 0).op.requestSet = some (.interface .pwm) ∧
      Itf.pwm ≠ (testState .gpio [] []).cfg.itf ∧
      category (testState .gpio [] []).cfg 0xFFFF = some .statusGeneric ∧
      category (testState .gpio [] []).cfg 0xFEFF = some .responseGeneric ∧
      category (testState .gpio [] []).cfg 0xFDFF = some (.responsePerInterface .gpio) ∧
      category (testState .gpio [] []).cfg 0x0200 = some (.requestPerInterface .pwm) := by
  decide +kernel

theorem witness_MessagesWriteNoBlockState :
    exec .ping (testState .gpio [] []) = .next ((testState .gpio [] []).send .good) ∧
      reasonsLegal (testState .gpio [] []).cfg.reason = true ∧
      (testState .gpio [] []).cfg.version.length ≤ 60 ∧ Instr.ping.op ≠ .pwmSetFrequency := by
  refine ⟨rfl, ?_, ?_, ?_⟩ <;> decide +kernel

theorem witness_QuantizerResultInRange : (0 : Rat) < 1000 ∧ ∃ q, q = quantize 125000000 1000 := by
  refine ⟨?_, _, rfl⟩
  decide +kernel

theorem witness_ConvergencePoints : ∃ q1 q2 q3 : Quant, q1 = quantize 125000000 1000 ∧
    q2 = quantize 125000000 (11744051 / 2097152) ∧ q3 = quantize 125000000 62500000 :=
  ⟨_, _, _, rfl, rfl, rfl⟩

theorem witness_EarlyStopIsWithinTolerance : (quantize 125000000 1000).iterationsUsed < 20 := by
  decide +kernel

/-- Wanted periods just below 2, at 2, just below 131072 and at 131072. -/
theorem witness_TopIsHalfThePeriodWanted :
    (0 : Rat) < 62500001 ∧ ((125000000 : Nat) : Rat) / 62500001 < 2 ∧ (0 : Rat) < 1 ∧
      ((131071 : Nat) : Rat) / 1 < 131072 ∧ 131072 ≤ ((131072 : Nat) : Rat) / 1 := by decide +kernel

/-- A port that keeps its registers: 1000.0 Hz set, then read back. -/
theorem witness_SetThenGetReportsTheSame :
    (testState .pwm [] [.okNum 0, .okNum 0, .okNum 0, .okNum 0, .okNum 62500, .okNum 1, .okNum 0, .okNum 1]).cfg.itf = .pwm ∧
      f32Value 0x447A0000 = .fin 1000 ∧ (0 : Rat) < 1000 ∧
      (testState .pwm [] [.okNum 0, .okNum 0, .okNum 0, .okNum 0, .okNum 62500, .okNum 1, .okNum 0, .okNum 1]).portTape =
        [.okNum 0, .okNum 0, .okNum 0, .okNum 0, .okNum (BitVec.ofNat 32 (quantize 125000000 1000).top),
          .okNum (BitVec.ofNat 32 (quantize 125000000 1000).divInt),
          .okNum (BitVec.ofNat 32 (quantize 125000000 1000).divFrac),
          .okNum (if (quantize 125000000 1000).pc then 1 else 0)] := by decide +kernel

theorem witness_RoundingKeepsPatterns :
    f32Value 0x3F000000 = .fin (1 / 2) ∧ (0 : Rat) < 1 / 2 ∧
      f32Value 0x7F7FFFFF = .fin ((2 ^ 24 - 1) * 2 ^ 104) := by decide +kernel

/-- A tie between two patterns that goes to the even one, the largest finite value, a value below the
smallest. -/
theorem witness_RoundingIsNearestEven :
    (0 : Rat) < 16777217 ∧ f32Value 0x7F7FFFFF = .fin ((2 ^ 24 - 1) * 2 ^ 104) ∧
      (16777217 : Rat) ≤ (2 ^ 24 - 1) * 2 ^ 104 ∧ rne32 16777217 = 0x4B800000 ∧
      rne32 (1 / 2 ^ 151) = 0 := by decide +kernel

/-- The bounds of each register, and a system clock beyond the largest finite value. -/
theorem witness_ReportedFrequencyIsFinitePositive :
    1 ≤ 2 ^ 130 ∧ rne32 (pwmFrequency (2 ^ 130) 0 false 1 0) = 0x7F7FFFFF ∧
      f32Value (rne32 (pwmFrequency 1 65535 true 255 15)) ≠ .fin 0 := by decide +kernel

theorem witness_StepRunsDecodedMessage :
    (testState .gpio [0x00, 0x00, 0x1D, 0x0F, 0xC0] []).resetReq = .none ∧
      (testState .gpio [0x00, 0x00, 0x1D, 0x0F, 0xC0] []).chunk.drop 0 ≠ [] ∧
      decFeed Config.decCap Dec.empty [0x00, 0x00, 0x1D, 0x0F, 0xC0] =
        (.ok 5 true, ⟨[0x00, 0x00, 0x1D, 0x0F], false⟩) ∧
      decode [0x00, 0x00, 0x1D, 0x0F] = .ok .ping := by decide +kernel

/-- An idle machine; the one `WireMessageRunsItsMeaning`, `PartialFrameWaits` and
`ChunkingChangesOnlyOffsets` ask for. -/
theorem witness_idle :
    (testState .gpio [] []).Idle ∧ (testState .gpio [] []).dec = Dec.empty ∧
      (Instr.gpioRead 2).wellFormed = true := ⟨⟨rfl, rfl, rfl, rfl⟩, rfl, rfl⟩

theorem witness_EveryFrameGetsOneResponse :
    cfgLegal (uartState [] []).cfg.toCfgParams = true ∧
      (⟨0x1000, List.replicate 64 0⟩ : Frame).payload.length ≤ Config.payloadCap := by decide +kernel

/-- One chunk for each frame error. -/
theorem witness_FrameErrorsAreAnswered :
    decFeed Config.decCap Dec.empty [0xC0] = (.ok 1 true, ⟨[], false⟩) ∧
      Frame.fromBytes (knownOpcode (testState .gpio [] []).cfg) [] = .error .tooShort ∧
      Frame.fromBytes (knownOpcode (testState .gpio [] []).cfg) [0x11, 0x22, 0x33, 0x44] =
        .error (.checksumMismatch 0x296D 0x3344) ∧
      Frame.fromBytes (knownOpcode (testState .gpio [] []).cfg) [0x00, 0xFF, 0x03, 0xFF] =
        .error (.unknownOpcode 0x00FF) ∧
      (testState .gpio [0xC0] []).chunk.drop 0 ≠ [] ∧
      reasonsLegal (testState .gpio [0xC0] []).cfg.reason = true := by decide +kernel

theorem witness_ShortArgumentsAreRefused :
    Op.ofCode (⟨0x0100, [2]⟩ : Frame).opcode = some .gpioDirSet ∧
      (⟨0x0100, [2]⟩ : Frame).payload.length < Op.gpioDirSet.minPayload ∧
      Op.gpioDirSet.requestSet = some (.interface (testState .gpio [] []).cfg.itf) ∧
      Op.ofCode (⟨0x0200, [0, 0, 0, 0]⟩ : Frame).opcode = some .pwmSetDutyCycle ∧
      (⟨0x0200, [0, 0, 0, 0]⟩ : Frame).payload.length < Op.pwmSetDutyCycle.minPayload ∧
      Op.pwmSetDutyCycle.requestSet ≠ some (.interface (testState .gpio [] []).cfg.itf) ∧
      reasonsLegal (testState .gpio [] []).cfg.reason = true := by
  decide +kernel

theorem witness_TransportErrorsDropTheFrame :
    decFeed Config.decCap Dec.empty ((testState .gpio [0xDB, 0xC0] []).chunk.drop 0) =
        (.err .badEscape 1, ⟨[], true⟩) ∧
      decFeed Config.decCap ⟨List.replicate 64 0x55, false⟩
          ((testState .gpio [0x55] []).chunk.drop 0) =
        (.err .bufferFull 0, ⟨List.replicate 64 0x55, false⟩) := by decide +kernel

/-- A legal table with a request of the installed interface, its arguments readable or not. -/
theorem witness_TableRequestsAreServed :
    cfgLegal (uartState [] []).cfg.toCfgParams = true ∧
      (⟨0x1000, [.u8], .call 7 [(.u8, 0)] .u16 (.reply (.value 0xEFFF [(.u8, 0), (.u16, 1)]))⟩ :
        RequestEntry) ∈ (cmdTable (uartState [] []).cfg (uartState [] []).cfg.itf).requests ∧
      (ArgParser.new []).consumeLayout [.u8] = none ∧
      (ArgParser.new [5]).consumeLayout [.u8] = some [.u8 5] := by
  decide +kernel

/-- Fields that fill the layouts of a request and of a response of a legal table. -/
theorem witness_DecodersTakeOnlyTheirOwnSet :
    cfgLegal (uartState [] []).cfg.toCfgParams = true ∧
      (⟨0xEFFD, [.text]⟩ : ResponseEntry) ∈ (cmdTable (uartState [] []).cfg .uart).responses ∧
      fillsLayout [.bytes [7, 8]] [.text] = true ∧
      (cmdTable (uartState [] []).cfg .uart).requests.any
        (fun e => fillsLayout [.u8 3, .f32 0x4C8583B0] e.layout) = true := by
  decide +kernel

/-- A call of a handler that is answered `Err`. -/
theorem witness_PortCallsStopAtFirstErr :
    reasonsLegal (uartState [] [.err]).cfg.reason = true ∧
      ((uartState [] [.err]).runHandler .uart (.call 7 [] .none (.reply .good)) []).portLog =
        [(.table .uart 7 [] .none, .err)] := by
  decide +kernel

/-- The invariant holds of a machine with a chunk in progress, which completes a frame in one step. -/
theorem witness_OneMessagePerCompletedFrame :
    (testState .gpio [0x00, 0x00, 0x1D, 0x0F, 0xC0] []).Inv ∧
      (testState .gpio [0x00, 0x00, 0x1D, 0x0F, 0xC0] []).resetReq = .none ∧
      decFeed Config.decCap Dec.empty [0x00, 0x00, 0x1D, 0x0F, 0xC0] =
        (.ok 5 true, ⟨[0x00, 0x00, 0x1D, 0x0F], false⟩) := by
  refine ⟨⟨?_, rfl, .inr ?_, ?_, ?_⟩, rfl, ?_⟩ <;> decide +kernel

/-- Idle machines that meet the invariant: an escape pending, a partial frame pending, nothing
pending. -/
theorem witness_OneEndResynchronises :
    ∀ d ∈ [(⟨[1, 2], true⟩ : Dec), ⟨[1, 2], false⟩, Dec.empty],
      ({ testState .gpio [] [] with dec := d } : State).Inv ∧
        ({ testState .gpio [] [] with dec := d } : State).Idle := by
  have hc : cfgLegal (testState .gpio [] []).cfg.toCfgParams = true := by decide +kernel
  have hi : cfgLegal (testState .gpio [] []).cfgIn = true := by decide +kernel
  have hl : ∀ d ∈ [(⟨[1, 2], true⟩ : Dec), ⟨[1, 2], false⟩, Dec.empty],
      d.acc.length ≤ Config.decCap := by decide +kernel
  exact fun d hd => ⟨⟨hl d hd, rfl, .inl ⟨rfl, rfl⟩, hc, hi⟩, rfl, rfl, rfl, rfl⟩

/-- A step that answers a next state, from a machine that meets the invariant: the premises of
`ErrBusyIsNeverSent`, `OnlyInstalledPortOperations`, `DiagIsOnlyAnOutput` and `EveryStepKeepsInv`. -/
theorem witness_step :
    (testState .gpio [] []).Inv ∧ step (testState .gpio [] []) = .next (testState .gpio [] []) := by
  refine ⟨⟨?_, rfl, .inl ⟨rfl, rfl⟩, ?_, ?_⟩, rfl⟩ <;> decide +kernel

theorem witness_resets :
    ((testState .gpio [] []).requestReset .atOnce).resetReq = .atOnce ∧
      step ((testState .gpio [] []).requestReset .atOnce) =
        .next ((testState .gpio [] []).requestReset .atOnce).takeReset ∧
      ((testState .gpio [] []).requestReset .atOnce).resetReq ≠ .none := ⟨rfl, rfl, by decide⟩

theorem witness_LateResetLosesTheResponse :
    ((testState .gpio [0x00] []).requestReset .beforeSend).resetReq = .beforeSend ∧
      (∃ t, step ((testState .gpio [0x00] []).requestReset .beforeSend) = .next t) ∧
      ∃ u, step (testState .gpio [0x00] []) = .next u := ⟨rfl, ⟨_, rfl⟩, ⟨_, rfl⟩⟩

end Sys2Proof.Tests
end

section
/-! The f32 format as `significand * 2^k` (00_scope.md R19): what `scale2`, `floorLog2`,
`roundHalfEven` and the reading of a pattern say, in powers of two of the rationals. -/

namespace Sys2Proof

theorem scale2_eq (m : Nat) (k : Int) : scale2 m k = (m : Rat) * 2 ^ k := by
  cases k with
  | ofNat n => simp [scale2]
  | negSucc n => simp [scale2, Rat.mkRat_eq_div, zpow_negSucc, div_eq_mul_inv]

/-- The estimate `floorLog2` starts from is the logarithm or one more. -/
theorem zpow_bounds_of_log2_sub {q : Rat} (hq : 0 < q) :
    (2 : Rat) ^ ((q.num.natAbs.log2 : Int) - q.den.log2 - 1) ≤ q ∧
      q < 2 ^ ((q.num.natAbs.log2 : Int) - q.den.log2 + 1) := by
  have hn : q.num.natAbs ≠ 0 := Int.natAbs_ne_zero.mpr (Rat.num_pos.mpr hq).ne'
  have hnum : ((q.num.natAbs : Nat) : Rat) = q * q.den := by
    rw [Rat.mul_den_eq_num, ← Int.natCast_natAbs q.num |>.trans (abs_of_pos (Rat.num_pos.mpr hq))]
    simp
  have nlo : (2 : Rat) ^ (q.num.natAbs.log2 : Int) ≤ q.num.natAbs := by
    exact_mod_cast Nat.log2_self_le hn
  have nhi : (q.num.natAbs : Rat) < 2 ^ ((q.num.natAbs.log2 : Int) + 1) := by
    exact_mod_cast Nat.lt_log2_self
  have dlo : (2 : Rat) ^ (q.den.log2 : Int) ≤ q.den := by
    exact_mod_cast Nat.log2_self_le q.den_nz
  have dhi : (q.den : Rat) < 2 ^ ((q.den.log2 : Int) + 1) := by
    exact_mod_cast Nat.lt_log2_self
  rw [hnum] at nlo nhi
  constructor
  · rw [sub_sub, zpow_sub₀ two_ne_zero, div_le_iff₀ (by positivity)]
    exact nlo.trans (mul_le_mul_of_nonneg_left dhi.le hq.le)
  · rw [sub_add_eq_add_sub, zpow_sub₀ two_ne_zero, lt_div_iff₀ (by positivity)]
    exact (mul_le_mul_of_nonneg_left dlo hq.le).trans_lt nhi

theorem floorLog2_eq_log {q : Rat} (hq : 0 < q) : floorLog2 q = Int.log 2 q := by
  obtain ⟨hlo, hhi⟩ := zpow_bounds_of_log2_sub hq
  have hle (x : Int) : (2 : Rat) ^ x ≤ q ↔ x ≤ Int.log 2 q :=
    Int.zpow_le_iff_le_log one_lt_two hq
  have hlt (x : Int) : q < (2 : Rat) ^ x ↔ Int.log 2 q < x :=
    Int.lt_zpow_iff_log_lt one_lt_two hq
  simp only [floorLog2, scale2_eq, Nat.cast_one, one_mul, hle]
  rw [hle] at hlo
  rw [hlt] at hhi
  split <;> omega

theorem le_floorLog2_iff {q : Rat} (hq : 0 < q) (k : Int) : k ≤ floorLog2 q ↔ 2 ^ k ≤ q := by
  rw [floorLog2_eq_log hq]
  exact (Int.zpow_le_iff_le_log one_lt_two hq).symm

theorem floorLog2_lt_iff {q : Rat} (hq : 0 < q) (k : Int) : floorLog2 q < k ↔ q < 2 ^ k := by
  rw [← not_le, le_floorLog2_iff hq, not_le]

/-- What rounding to an integer promises (R19): at most a half away, and even at a half. -/
theorem roundHalfEven_spec {x : Rat} (hx : 0 ≤ x) :
    |(roundHalfEven x : Rat) - x| ≤ 1 / 2 ∧
      (|(roundHalfEven x : Rat) - x| = 1 / 2 → roundHalfEven x % 2 = 0) := by
  have hfloor : ((x.floor.toNat : Nat) : Rat) = (⌊x⌋ : Int) := by
    exact_mod_cast Int.toNat_of_nonneg (Int.floor_nonneg.mpr hx)
  have hlo : ((x.floor.toNat : Nat) : Rat) ≤ x := hfloor ▸ Int.floor_le x
  have hhi : x < (x.floor.toNat : Nat) + 1 := hfloor ▸ Int.lt_floor_add_one x
  simp only [roundHalfEven]
  generalize x.floor.toNat = low at hlo hhi
  split
  next below => rw [abs_of_nonpos (by linarith)]; exact ⟨by linarith, fun h => by linarith⟩
  next notBelow =>
    split
    next above =>
      push_cast
      rw [abs_of_nonneg (by linarith)]
      exact ⟨by linarith, fun h => by linarith⟩
    next notAbove =>
      have half : x = low + 1 / 2 := by linarith
      subst half
      split
      next even => exact ⟨by norm_num, fun _ => even⟩
      next odd => exact ⟨by push_cast; norm_num, fun _ => by omega⟩

@[simp] theorem roundHalfEven_natCast (n : Nat) : roundHalfEven (n : Rat) = n := by
  have hfloor : (n : Rat).floor.toNat = n := by
    have : (n : Rat).floor = n := Int.floor_natCast (R := Rat) n
    simp [this]
  simp [roundHalfEven, hfloor]

theorem roundHalfEven_le {x : Rat} (hx : 0 ≤ x) {n : Nat} (h : x ≤ n) : roundHalfEven x ≤ n := by
  have near := (abs_le.mp (roundHalfEven_spec hx).1).2
  have : (roundHalfEven x : Rat) < (n + 1 : Nat) := by push_cast; linarith
  exact Nat.lt_succ_iff.mp (by exact_mod_cast this)

theorem le_roundHalfEven {x : Rat} (hx : 0 ≤ x) {n : Nat} (h : n ≤ x) : n ≤ roundHalfEven x := by
  have near := (abs_le.mp (roundHalfEven_spec hx).1).1
  have : (n : Rat) < (roundHalfEven x + 1 : Nat) := by push_cast; linarith
  exact Nat.lt_succ_iff.mp (by exact_mod_cast this)

/-- No integer is nearer than the rounded one, and one that is as near leaves it even. -/
theorem roundHalfEven_nearest {x : Rat} (hx : 0 ≤ x) (z : Int) :
    |(roundHalfEven x : Rat) - x| ≤ |(z : Rat) - x| ∧
      (|(roundHalfEven x : Rat) - x| = |(z : Rat) - x| → z ≠ roundHalfEven x →
        roundHalfEven x % 2 = 0) := by
  obtain ⟨near, even⟩ := roundHalfEven_spec hx
  by_cases hz : z = roundHalfEven x
  · subst hz
    exact ⟨by simp, fun _ h => absurd rfl h⟩
  · have apart : (1 : Rat) ≤ |(z : Rat) - roundHalfEven x| := by
      exact_mod_cast Int.one_le_abs (sub_ne_zero.mpr hz)
    have triangle :
        |(z : Rat) - roundHalfEven x| ≤ |(z : Rat) - x| + |(roundHalfEven x : Rat) - x| := by
      rw [abs_sub_comm (roundHalfEven x : Rat) x]
      exact abs_sub_le _ _ _
    exact ⟨by linarith, fun tie _ => even (by linarith)⟩

/-- The significand of a finite pattern: the fraction field, with the leading bit a normal pattern
leaves unwritten (R19). -/
def f32Sig (u : F32) : Nat := if f32Exp u = 0 then f32Frac u else 2 ^ 23 + f32Frac u

/-- The exponent of a finite pattern's unit in the last place (R19). -/
def f32UlpExp (u : F32) : Int := max (f32Exp u : Int) 1 - 150

theorem f32Mag_eq (u : F32) : f32Mag u = (f32Sig u : Rat) * 2 ^ f32UlpExp u := by
  unfold f32Mag f32Sig f32UlpExp
  split
  next subnormal => simp [scale2_eq, subnormal]
  next normal =>
    have : max (f32Exp u : Int) 1 = f32Exp u := by omega
    rw [scale2_eq, this]

theorem f32Exp_eq (u : F32) : f32Exp u = u.toNat / 2 ^ 23 % 256 := by
  simp [f32Exp, BitVec.extractLsb'_toNat, Nat.shiftRight_eq_div_pow]

theorem f32Frac_eq (u : F32) : f32Frac u = u.toNat % 2 ^ 23 := by
  simp [f32Frac, BitVec.extractLsb'_toNat]

theorem f32Sign_eq (u : F32) : u.getLsbD 31 = decide (2 ^ 31 ≤ u.toNat) := by
  rw [← BitVec.msb_eq_decide u, BitVec.msb_eq_getLsbD_last]

theorem neg_le_f32UlpExp (u : F32) : -149 ≤ f32UlpExp u := by
  unfold f32UlpExp; omega

theorem f32Sig_lt (u : F32) : f32Sig u < 2 ^ 24 := by
  have := f32Frac_eq u
  unfold f32Sig; split <;> omega

/-- A pattern is normalised, or its unit in the last place is the least. -/
theorem f32Sig_normal_or_least (u : F32) : 2 ^ 23 ≤ f32Sig u ∨ f32UlpExp u = -149 := by
  unfold f32Sig f32UlpExp; split <;> omega

/-- The pattern of significand `sig` at the ulp exponent `k`, as a number; `sig = 2^24` carries into the
exponent field. -/
def f32Bits (k : Int) (sig : Nat) : Nat := (k + 149).toNat * 2 ^ 23 + sig

theorem f32Bits_of_nonneg {u : F32} (h : u.getLsbD 31 = false) :
    f32Bits (f32UlpExp u) (f32Sig u) = u.toNat := by
  have hsign : u.toNat < 2 ^ 31 := by simpa only [f32Sign_eq, decide_eq_false_iff_not, not_le] using h
  have hexp := f32Exp_eq u
  have hfrac := f32Frac_eq u
  unfold f32Bits f32UlpExp f32Sig
  split <;> omega

theorem f32Value_eq_fin {u : F32} {q : Rat} (h : f32Value u = .fin q) :
    f32Exp u ≠ 255 ∧ q = if u.getLsbD 31 then -f32Mag u else f32Mag u := by
  unfold f32Value at h
  split at h
  next => split at h <;> cases h
  next finite => cases h; exact ⟨finite, rfl⟩

theorem f32UlpExp_le_of_finite {u : F32} (h : f32Exp u ≠ 255) : f32UlpExp u ≤ 104 := by
  have := f32Exp_eq u
  unfold f32UlpExp; omega

/-- The value of the pattern `f32Bits k sig`: the carry of `sig = 2^24` into the exponent field leaves
the value `sig * 2^k`. -/
theorem f32Mag_of_toNat {u : F32} {k : Int} {sig : Nat} (hu : u.toNat = f32Bits k sig)
    (hk : -149 ≤ k) (hsig : sig ≤ 2 ^ 24) (hnormal : 2 ^ 23 ≤ sig ∨ k = -149)
    (hfin : f32Bits k sig < 0x7F800000) : f32Mag u = sig * 2 ^ k := by
  have hexp := f32Exp_eq u
  have hfrac := f32Frac_eq u
  rw [hu] at hexp hfrac
  rw [f32Mag_eq]
  unfold f32Bits at hexp hfrac hfin
  obtain carry | noCarry := hsig.eq_or_lt
  · have hs : f32Sig u = 2 ^ 23 := by unfold f32Sig; split <;> omega
    have he : f32UlpExp u = k + 1 := by unfold f32UlpExp; omega
    rw [hs, he, carry, zpow_add_one₀ two_ne_zero]
    push_cast
    ring
  · have hs : f32Sig u = sig := by unfold f32Sig; split <;> omega
    have he : f32UlpExp u = k := by unfold f32UlpExp; omega
    rw [hs, he]

theorem f32Value_f32Bits {k : Int} {sig : Nat} (hk : -149 ≤ k) (hsig : sig ≤ 2 ^ 24)
    (hnormal : 2 ^ 23 ≤ sig ∨ k = -149) (hfin : f32Bits k sig < 0x7F800000) :
    f32Value (BitVec.ofNat 32 (f32Bits k sig)) = .fin (sig * 2 ^ k) := by
  have hnat : (BitVec.ofNat 32 (f32Bits k sig)).toNat = f32Bits k sig := by
    rw [BitVec.toNat_ofNat, Nat.mod_eq_of_lt (hfin.trans (by norm_num))]
  have hmag := f32Mag_of_toNat hnat hk hsig hnormal hfin
  generalize BitVec.ofNat 32 (f32Bits k sig) = u at hnat hmag ⊢
  have hsign : u.getLsbD 31 = false := by rw [f32Sign_eq, decide_eq_false]; omega
  have hfinite : f32Exp u ≠ 255 := by rw [f32Exp_eq]; omega
  rw [f32Value, if_neg hfinite, hsign, hmag]
  rfl

theorem f32Mag_nonneg (u : F32) : 0 ≤ f32Mag u := by
  rw [f32Mag_eq]; positivity

theorem f32Value_pos {u : F32} {q : Rat} (h : f32Value u = .fin q) (hq : 0 < q) :
    f32Exp u ≠ 255 ∧ u.getLsbD 31 = false ∧ q = f32Mag u := by
  obtain ⟨finite, rfl⟩ := f32Value_eq_fin h
  have hmag := f32Mag_nonneg u
  split at hq
  next => exact absurd hq (by linarith)
  next positive => exact ⟨finite, eq_false_of_ne_true positive, if_neg positive⟩

/-- Every finite value lies on the grid of the units `2^k`, or closer to zero than the least normalised
multiple of one. -/
theorem f32Value_onGrid_or_small {u : F32} {v : Rat} (h : f32Value u = .fin v) {k : Int} :
    (∃ z : Int, v = z * 2 ^ k) ∨ (-149 < k ∧ |v| < 2 ^ 23 * 2 ^ k) := by
  obtain ⟨-, hv⟩ := f32Value_eq_fin h
  obtain coarse | fine := le_or_gt k (f32UlpExp u)
  · have hmag : f32Mag u = ((f32Sig u * 2 ^ (f32UlpExp u - k).toNat : Nat) : Rat) * 2 ^ k := by
      have hsplit : f32UlpExp u = ((f32UlpExp u - k).toNat : Int) + k := by omega
      rw [f32Mag_eq]
      conv_lhs => rw [hsplit, zpow_add₀ two_ne_zero, zpow_natCast, ← mul_assoc]
      push_cast
      rfl
    left
    split at hv
    · exact ⟨-(f32Sig u * 2 ^ (f32UlpExp u - k).toNat : Nat), by rw [hv, hmag]; push_cast; ring⟩
    · exact ⟨(f32Sig u * 2 ^ (f32UlpExp u - k).toNat : Nat), by rw [hv, hmag]; push_cast; ring⟩
  · have habs : |v| = f32Mag u := by
      rw [hv]; split <;> simp [abs_of_nonneg (f32Mag_nonneg u)]
    refine .inr ⟨(neg_le_f32UlpExp u).trans_lt fine, ?_⟩
    calc |v| = f32Sig u * 2 ^ f32UlpExp u := by rw [habs, f32Mag_eq]
      _ < 2 ^ 24 * 2 ^ f32UlpExp u := by gcongr; exact_mod_cast f32Sig_lt u
      _ ≤ 2 ^ 24 * 2 ^ (k - 1) := by gcongr <;> [norm_num; omega]
      _ = 2 ^ 23 * 2 ^ k := by rw [zpow_sub_one₀ two_ne_zero]; ring

/-- The largest finite value. -/
def f32MaxValue : Rat := (2 ^ 24 - 1) * 2 ^ 104

theorem f32Value_f32Max : f32Value f32Max = .fin f32MaxValue := by decide +kernel

/-- The largest finite value bounds every finite value. -/
theorem f32Value_le_max {u : F32} {v : Rat} (h : f32Value u = .fin v) : v ≤ f32MaxValue := by
  obtain ⟨finite, hv⟩ := f32Value_eq_fin h
  have hmag := f32Mag_nonneg u
  have hsig : (f32Sig u : Rat) ≤ 2 ^ 24 - 1 := by
    have : (f32Sig u : Rat) + 1 ≤ 2 ^ 24 := by exact_mod_cast f32Sig_lt u
    linarith
  calc v ≤ f32Mag u := by rw [hv]; split <;> linarith
    _ = f32Sig u * 2 ^ f32UlpExp u := f32Mag_eq u
    _ ≤ (2 ^ 24 - 1) * 2 ^ (104 : Int) := by
      gcongr
      · norm_num
      · exact f32UlpExp_le_of_finite finite
    _ = f32MaxValue := by unfold f32MaxValue; norm_cast

end Sys2Proof
end

section
/-! Rounding to `f32` (00_scope.md R19): `rne32` rounds the significand at the exponent of its
argument, which finds a finite pattern again and picks a nearest one. -/

namespace Sys2Proof

/-- The exponent of the unit in the last place `rne32 q` rounds at (R19). -/
def rneUlpExp (q : Rat) : Int := max (floorLog2 q) (-126) - 23

/-- `q` in units of the last place. -/
def rneScaled (q : Rat) : Rat := q / 2 ^ rneUlpExp q

/-- The significand of `rne32 q`, `2^24` where the rounding carries. -/
def rneSig (q : Rat) : Nat := roundHalfEven (rneScaled q)

/-- `rne32 q` as a number, before the limit to the finite patterns. -/
def rneBits (q : Rat) : Nat := f32Bits (rneUlpExp q) (rneSig q)

theorem rne32_eq (q : Rat) :
    rne32 q = if rneBits q ≥ 0x7F800000 then f32Max else BitVec.ofNat 32 (rneBits q) := by
  have hexp : (rneUlpExp q + 149).toNat = (max (floorLog2 q) (-126) + 126).toNat := by
    unfold rneUlpExp; congr 1; omega
  unfold rneBits f32Bits rneSig rneScaled
  rw [hexp]
  simp only [rne32, scale2_eq, Nat.cast_one, one_mul]
  rfl

theorem rne32_of_bits_lt {q : Rat} (h : rneBits q < 0x7F800000) :
    rne32 q = BitVec.ofNat 32 (rneBits q) := by
  rw [rne32_eq, if_neg (by omega)]

theorem neg_le_rneUlpExp (q : Rat) : -149 ≤ rneUlpExp q := by
  unfold rneUlpExp; omega

theorem rneScaled_mul_ulp (q : Rat) : rneScaled q * 2 ^ rneUlpExp q = q :=
  div_mul_cancel₀ q (by positivity)

theorem rneScaled_pos {q : Rat} (hq : 0 < q) : 0 < rneScaled q := by
  unfold rneScaled; positivity

theorem rneScaled_lt {q : Rat} (hq : 0 < q) : rneScaled q < 2 ^ 24 := by
  have hlt : q < 2 ^ (rneUlpExp q + 24) := by
    rw [← floorLog2_lt_iff hq]; unfold rneUlpExp; omega
  rw [rneScaled, div_lt_iff₀ (by positivity)]
  calc q < 2 ^ (rneUlpExp q + 24) := hlt
    _ = 2 ^ 24 * 2 ^ rneUlpExp q := by rw [zpow_add₀ two_ne_zero, mul_comm]; norm_cast

/-- The scaled argument is normalised, or the unit in the last place is the least. -/
theorem rneScaled_normal_or_least {q : Rat} (hq : 0 < q) :
    2 ^ 23 ≤ rneScaled q ∨ rneUlpExp q = -149 := by
  by_cases hmin : rneUlpExp q = -149
  · exact .inr hmin
  · have hle : 2 ^ (rneUlpExp q + 23) ≤ q := by
      rw [← le_floorLog2_iff hq]; unfold rneUlpExp at hmin ⊢; omega
    refine .inl ?_
    rw [rneScaled, le_div_iff₀ (by positivity)]
    calc (2 : Rat) ^ 23 * 2 ^ rneUlpExp q = 2 ^ (rneUlpExp q + 23) := by
          rw [zpow_add₀ two_ne_zero, mul_comm]; norm_cast
      _ ≤ q := hle

/-- The significand and ulp exponent of a pattern are found again from its value. -/
theorem rneUlpExp_of_canonical {k : Int} {sig : Nat} (hk : -149 ≤ k) (hpos : 0 < sig)
    (hsig : sig < 2 ^ 24) (hnormal : 2 ^ 23 ≤ sig ∨ k = -149) :
    rneUlpExp ((sig : Rat) * 2 ^ k) = k := by
  have hq : (0 : Rat) < sig * 2 ^ k := by positivity
  have hlt : floorLog2 (sig * 2 ^ k) < k + 24 := by
    rw [floorLog2_lt_iff hq, add_comm, zpow_add₀ two_ne_zero]
    gcongr
    exact_mod_cast hsig
  obtain normal | least := hnormal
  · have hle : k + 23 ≤ floorLog2 (sig * 2 ^ k) := by
      rw [le_floorLog2_iff hq, add_comm, zpow_add₀ two_ne_zero]
      gcongr
      exact_mod_cast normal
    unfold rneUlpExp; omega
  · unfold rneUlpExp; omega

theorem rneSig_le {q : Rat} (hq : 0 < q) : rneSig q ≤ 2 ^ 24 :=
  roundHalfEven_le (rneScaled_pos hq).le (by exact_mod_cast (rneScaled_lt hq).le)

theorem rneSig_normal_or_least {q : Rat} (hq : 0 < q) : 2 ^ 23 ≤ rneSig q ∨ rneUlpExp q = -149 :=
  (rneScaled_normal_or_least hq).imp_left fun normal =>
    le_roundHalfEven (rneScaled_pos hq).le (by exact_mod_cast normal)

theorem rneBits_lt_of_le_max {q : Rat} (hq : 0 < q) (hmax : q ≤ f32MaxValue) :
    rneBits q < 0x7F800000 := by
  have hsig := rneSig_le hq
  have hexp : rneUlpExp q ≤ 104 := by
    have : floorLog2 q < 128 := by
      rw [floorLog2_lt_iff hq]
      exact hmax.trans_lt (by norm_num [f32MaxValue])
    unfold rneUlpExp; omega
  unfold rneBits f32Bits
  obtain top | below := hexp.eq_or_lt
  · have hscaled : rneScaled q ≤ (2 ^ 24 - 1 : Nat) := by
      rw [rneScaled, top, div_le_iff₀ (by positivity)]
      unfold f32MaxValue at hmax
      exact_mod_cast hmax
    have : rneSig q ≤ 2 ^ 24 - 1 := roundHalfEven_le (rneScaled_pos hq).le hscaled
    omega
  · omega

/-- Within the finite range `rne32` is the rounded significand at the unit in the last place of `q`. -/
theorem f32Value_rne32 {q : Rat} (hq : 0 < q) (hmax : q ≤ f32MaxValue) :
    f32Value (rne32 q) = .fin (rneSig q * 2 ^ rneUlpExp q) := by
  have hlt := rneBits_lt_of_le_max hq hmax
  rw [rne32_of_bits_lt hlt]
  exact f32Value_f32Bits (neg_le_rneUlpExp q) (rneSig_le hq) (rneSig_normal_or_least hq) hlt

/-- The pattern is even where the significand is. -/
theorem rne32_even {q : Rat} (hq : 0 < q) (hmax : q ≤ f32MaxValue) (heven : rneSig q % 2 = 0) :
    (rne32 q).getLsbD 0 = false := by
  rw [rne32_of_bits_lt (rneBits_lt_of_le_max hq hmax), BitVec.getLsbD_ofNat]
  have : rneBits q % 2 = 0 := by unfold rneBits f32Bits; omega
  simp [Nat.testBit_zero, this]

/-- No integer is nearer to the scaled `q` than the significand, and one as near leaves it even. -/
theorem rneSig_nearest {q : Rat} (hq : 0 < q) (z : Int) :
    |(rneSig q : Rat) - rneScaled q| ≤ |(z : Rat) - rneScaled q| ∧
      (|(rneSig q : Rat) - rneScaled q| = |(z : Rat) - rneScaled q| → z ≠ rneSig q →
        rneSig q % 2 = 0) :=
  roundHalfEven_nearest (rneScaled_pos hq).le z

/-- Distances from `q` are those from the scaled `q`, in units of the last place. -/
theorem abs_mul_ulp_sub (x q : Rat) :
    |x * 2 ^ rneUlpExp q - q| = |x - rneScaled q| * 2 ^ rneUlpExp q := by
  calc |x * 2 ^ rneUlpExp q - q|
      = |(x - rneScaled q) * 2 ^ rneUlpExp q| := by rw [sub_mul, rneScaled_mul_ulp]
    _ = |x - rneScaled q| * 2 ^ rneUlpExp q := by
      rw [abs_mul, abs_of_pos (zpow_pos (a := (2 : Rat)) two_pos _)]

/-- A value closer to zero than every normalised one is strictly farther from `q` than the rounded
one: the least normalised value `2^23 * 2^k` lies between. -/
theorem rounded_nearer_than_small {q v : Rat} (hq : 0 < q) (hk : -149 < rneUlpExp q)
    (hv : |v| < 2 ^ 23 * 2 ^ rneUlpExp q) :
    |rneSig q * 2 ^ rneUlpExp q - q| < |v - q| := by
  have normal : (2 : Rat) ^ 23 ≤ rneScaled q :=
    (rneScaled_normal_or_least hq).resolve_right (by omega)
  have between : 2 ^ 23 * 2 ^ rneUlpExp q ≤ q := (le_div_iff₀ (by positivity)).mp normal
  have near := (rneSig_nearest hq (2 ^ 23)).1
  calc |rneSig q * 2 ^ rneUlpExp q - q|
      = |rneSig q - rneScaled q| * 2 ^ rneUlpExp q := abs_mul_ulp_sub ..
    _ ≤ |((2 ^ 23 : Int) : Rat) - rneScaled q| * 2 ^ rneUlpExp q := by gcongr
    _ = |2 ^ 23 * 2 ^ rneUlpExp q - q| := by rw [abs_mul_ulp_sub]; norm_cast
    _ = q - 2 ^ 23 * 2 ^ rneUlpExp q := by rw [abs_of_nonpos (by linarith), neg_sub]
    _ < q - v := by linarith [le_abs_self v]
    _ ≤ |v - q| := by rw [abs_sub_comm]; exact le_abs_self _

/-- Settles O37: the value of a pattern gives back its ulp exponent, its scaled value is the
significand, and the two make the pattern. -/
theorem roundingKeepsPatterns : Obligations.RoundingKeepsPatterns := by
  unfold Obligations.RoundingKeepsPatterns
  intro u q hval hq
  obtain ⟨finite, sign, hmag⟩ := f32Value_pos hval hq
  rw [f32Mag_eq] at hmag
  have hpos : 0 < f32Sig u := by
    rw [Nat.pos_iff_ne_zero]; intro h0; simp [hmag, h0] at hq
  have hexp : rneUlpExp q = f32UlpExp u := by
    rw [hmag]
    exact rneUlpExp_of_canonical (neg_le_f32UlpExp u) hpos (f32Sig_lt u) (f32Sig_normal_or_least u)
  have hscaled : rneScaled q = f32Sig u := by
    rw [rneScaled, hexp, hmag, mul_div_cancel_right₀ _ (by positivity)]
  have hbits : rneBits q = u.toNat := by
    rw [rneBits, rneSig, hscaled, roundHalfEven_natCast, hexp, f32Bits_of_nonneg sign]
  have hfin : u.toNat < 0x7F800000 := by
    have hfield := f32Exp_eq u
    rw [f32Sign_eq, decide_eq_false_iff_not] at sign
    omega
  rw [rne32_of_bits_lt (hbits ▸ hfin), hbits, BitVec.ofNat_toNat, BitVec.setWidth_eq]

/-- Settles O38: a finite value on the grid of the unit in the last place is compared by its integer
multiple of the unit, and one off the grid is farther away. -/
theorem roundingIsNearestEven : Obligations.RoundingIsNearestEven := by
  unfold Obligations.RoundingIsNearestEven
  rintro q hq ⟨w, m, hw, hqm⟩
  have hmax := hqm.trans (f32Value_le_max hw)
  refine ⟨_, f32Value_rne32 hq hmax, fun u v hv => ?_⟩
  obtain ⟨z, rfl⟩ | ⟨hk, small⟩ := f32Value_onGrid_or_small hv (k := rneUlpExp q)
  · obtain ⟨near, even⟩ := rneSig_nearest hq z
    rw [abs_mul_ulp_sub, abs_mul_ulp_sub]
    refine ⟨by gcongr, fun tie hne => rne32_even hq hmax (even ?_ ?_)⟩
    · exact mul_right_cancel₀ (by positivity) tie
    · rintro rfl
      exact hne (by push_cast; rfl)
  · have nearer := rounded_nearer_than_small hq hk small
    exact ⟨nearer.le, fun tie => absurd tie nearer.ne⟩

end Sys2Proof
end

section
/-! What a handler reads and puts out (10_state.md R28, R31, R34; 43_dispatcher.md R136, R156): on
states that agree in the configuration registers and in the source of the port's answers, it puts out
the same events and changes nothing else but the encoder. -/

namespace Sys2Proof.Machine

/-! ## Events put out -/

@[simp] theorem OutEvent.message?_comp_diag : OutEvent.message? ∘ OutEvent.diag = fun _ => none := rfl
@[simp] theorem OutEvent.call?_comp_diag : OutEvent.call? ∘ OutEvent.diag = fun _ => none := rfl
@[simp] theorem OutEvent.report?_comp_diag : OutEvent.report? ∘ OutEvent.diag = some := rfl

/-- `s` after events were put out: each port call among them has drawn an answer. -/
def State.record (es : List OutEvent) (s : State) : State :=
  { s with
    portTape := s.portTape.drop (es.filterMap OutEvent.call?).length
    draws := s.draws + (es.filterMap OutEvent.call?).length
    out := s.out ++ es }

@[simp] theorem State.record_nil (s : State) : s.record [] = s := by simp [State.record]

@[simp] theorem State.record_record (s : State) (es es' : List OutEvent) :
    (s.record es).record es' = s.record (es ++ es') := by
  simp [State.record, Nat.add_assoc]

@[simp] theorem State.record_tx (s : State) (es : List OutEvent) :
    (s.record es).tx = s.tx ++ es.filterMap OutEvent.message? := State.tx_of_out rfl

@[simp] theorem State.record_portLog (s : State) (es : List OutEvent) :
    (s.record es).portLog = s.portLog ++ es.filterMap OutEvent.call? := State.portLog_of_out rfl

@[simp] theorem State.record_diag (s : State) (es : List OutEvent) :
    (s.record es).diag = s.diag ++ es.filterMap OutEvent.report? := State.diag_of_out rfl

@[simp] theorem State.record_out (s : State) (es : List OutEvent) :
    (s.record es).out = s.out ++ es := rfl

@[simp] theorem State.record_draws (s : State) (es : List OutEvent) :
    (s.record es).draws = s.draws + (es.filterMap OutEvent.call?).length := rfl

@[simp] theorem State.record_portTape (s : State) (es : List OutEvent) :
    (s.record es).portTape = s.portTape.drop (es.filterMap OutEvent.call?).length := rfl

theorem State.afterPort_eq_record (s : State) (c : PortCall) :
    s.afterPort c = s.record [.port (c, s.portAnswer c)] := by
  simp [State.afterPort, State.record]

theorem State.emitDiag_eq_record (s : State) (e : DiagEvent) :
    s.emitDiag e = s.record [.diag e] := rfl

theorem State.emit_reports_eq_record (s : State) (reports : List DiagEvent) :
    s.emit (reports.map .diag) = s.record (reports.map .diag) := by
  simp [State.emit, State.record]

/-! ## Sending -/

/-- What sending a raw frame puts out: its wire message, or the report that it was dropped (R156). -/
def sentEvent (raw : Bytes) : OutEvent :=
  match encFeed Config.encCap [] raw with
  | (.bufferFull k, _) => .diag (.txDropped k)
  | (.ok _, buf) =>
    match encFinish Config.encCap buf with
    | (.bufferFull k, _) => .diag (.txDropped k)
    | (.ok _, buf') => .tx buf'

theorem State.sendRaw_eq (s : State) (raw : Bytes) :
    s.sendRaw raw = { s with enc := [], out := s.out ++ [sentEvent raw] } := by
  unfold State.sendRaw sentEvent
  rcases encFeed Config.encCap [] raw with ⟨_ | k, buf⟩
  · dsimp only
    rcases encFinish Config.encCap buf with ⟨_ | k, buf'⟩ <;> rfl
  · rfl

theorem sentEvent_cases (raw : Bytes) :
    sentEvent raw = .tx (wire raw) ∨ ∃ k, sentEvent raw = .diag (.txDropped k) := by
  have sent := State.sendRaw_cases .reset raw
  simpa [State.sendRaw_eq] using sent

@[simp] theorem sentEvent_call? (raw : Bytes) : (sentEvent raw).call? = none := by
  obtain h | ⟨k, h⟩ := sentEvent_cases raw <;> rw [h] <;> rfl

/-- A frame with at most 64 payload bytes is not dropped. -/
theorem sentEvent_of_fits {f : Frame} (h : f.payload.length ≤ Config.payloadCap) :
    sentEvent f.toBytes = .tx (wire f.toBytes) := by
  have sent := (State.sendRaw_eq .reset f.toBytes).symm.trans (State.sendFrame_fits .reset f h)
  simpa [State.answeredFrame] using congrArg State.out sent

theorem State.sendFrame_eq (s : State) (f : Frame) :
    s.sendFrame f = (s.record [sentEvent f.toBytes]).setEnc [] := by
  simp [State.sendFrame, State.sendRaw_eq, State.record, State.setEnc]

/-! ## What a handler reads -/

/-- Two states that agree in all a handler reads: the configuration registers and where the port's
answers come from. -/
structure State.Agrees (s s' : State) : Prop where
  cfg : s'.cfg = s.cfg
  portTape : s'.portTape = s.portTape
  draws : s'.draws = s.draws

theorem State.Agrees.refl (s : State) : s.Agrees s := ⟨rfl, rfl, rfl⟩

theorem State.Agrees.record {s s' : State} (a : s.Agrees s') (es : List OutEvent) :
    (s.record es).Agrees (s'.record es) :=
  ⟨a.cfg, congrArg (List.drop _) a.portTape, congrArg (· + _) a.draws⟩

theorem State.Agrees.portAnswer {s s' : State} (a : s.Agrees s') (c : PortCall) :
    s'.portAnswer c = s.portAnswer c := by
  simp only [State.portAnswer, a.portTape, a.draws]

theorem State.Agrees.afterPort {s s' : State} (a : s.Agrees s') (c : PortCall) :
    s'.afterPort c = s'.record [.port (c, s.portAnswer c)] := by
  rw [State.afterPort_eq_record, a.portAnswer]

/-- On every state that agrees with `s`, the handler `g` puts out `events`, then sends `f`, and changes
nothing else. -/
def State.Answers (s : State) (g : State → State) (events : List OutEvent) (f : Frame) : Prop :=
  ∀ s', s.Agrees s' → g s' = (s'.record events).sendFrame f

theorem State.Answers.congr {s : State} {g g' : State → State} {events : List OutEvent} {f : Frame}
    (h : s.Answers g events f) (hg : ∀ s', s.Agrees s' → g' s' = g s') : s.Answers g' events f :=
  fun s' a => (hg s' a).trans (h s' a)

/-- A handler that puts out `es` and goes on as `g`. -/
theorem State.Answers.after {s : State} {g : State → State} {es events : List OutEvent} {f : Frame}
    (h : (s.record es).Answers g events f) :
    s.Answers (fun t => g (t.record es)) (es ++ events) f := by
  intro s' a
  dsimp only
  rw [h _ (a.record es), State.record_record]

theorem State.answers_sendFrame (s : State) (f : Frame) : s.Answers (State.sendFrame f) [] f := by
  intro s' _
  rw [State.record_nil]

theorem State.answers_fail (s : State) (e : Failure) :
    s.Answers (State.fail e) (e.events.map .diag) (e.response s.cfg.reason).toFrame := by
  intro s' a
  rw [State.fail, State.emit_reports_eq_record, a.cfg, State.send]

/-- A call sequence, its answers and what it puts out are the same on every state that agrees. -/
theorem State.portAll_of_agrees (cs : List PortCall) (s : State) :
    ∃ (log : List (PortCall × PortAnswer)) (vs : Option (List PortVal)), log.map Prod.fst <+: cs ∧
      ∀ s', s.Agrees s' → s'.portAll cs = (vs, s'.record (log.map .port)) := by
  induction cs generalizing s with
  | nil => exact ⟨[], some [], by simp, fun s' _ => by simp [State.portAll]⟩
  | cons c rest ih =>
    cases ha : s.portAnswer c with
    | err =>
      refine ⟨[(c, .err)], none, by simp, fun s' a => ?_⟩
      simp [State.portAll, a.portAnswer, a.afterPort, ha]
    | ok v =>
      obtain ⟨log, vs, hlog, hall⟩ := ih (s.record [.port (c, .ok v)])
      refine ⟨(c, .ok v) :: log, vs.map (v :: ·), by simpa using hlog, fun s' a => ?_⟩
      have hrest := hall _ (a.record [.port (c, .ok v)])
      cases vs <;> simp [State.portAll, a.portAnswer, a.afterPort, ha, hrest]

/-! ## Frames without a message of the opcode table -/

theorem State.runHandler_answers (itf : Itf) (h : Handler) (env : List Val) (s : State) :
    ∃ events f, s.Answers (State.runHandler itf h env) events f := by
  induction h generalizing env s with
  | reply r =>
    have replied := s.answers_sendFrame (r.frame s.cfg.reason env)
    exact ⟨_, _, replied.congr fun s' a => by simp only [State.runHandler, a.cfg]⟩
  | bind t rest ih =>
    obtain ⟨_, _, goesOn⟩ := ih (env ++ [t.eval s.cfg.fsys env]) s
    exact ⟨_, _, goesOn.congr fun s' a => by simp only [State.runHandler, a.cfg]⟩
  | call op args res rest ih =>
    cases ha : s.portAnswer (.table itf op (fieldsOf env args) res) with
    | err =>
      have refused :=
        (s.record [.port (.table itf op (fieldsOf env args) res, .err)]).answers_fail .hwFailure
      exact ⟨_, _, refused.after.congr fun s' a => by
        simp only [State.runHandler, a.portAnswer, a.afterPort, ha]⟩
    | ok v =>
      obtain ⟨_, _, goesOn⟩ := ih (env ++ [Val.ofAnswer res v])
        (s.record [.port (.table itf op (fieldsOf env args) res, .ok v)])
      exact ⟨_, _, goesOn.after.congr fun s' a => by
        simp only [State.runHandler, a.portAnswer, a.afterPort, ha]⟩
  | branch cond yes no ihy ihn =>
    cases hc : (valAt env cond).asBool with
    | true =>
      obtain ⟨_, _, goesOn⟩ := ihy env s
      exact ⟨_, _, goesOn.congr fun s' _ => by simp [State.runHandler, hc]⟩
    | false =>
      obtain ⟨_, _, goesOn⟩ := ihn env s
      exact ⟨_, _, goesOn.congr fun s' _ => by simp [State.runHandler, hc]⟩
  | quantize target rest ih =>
    cases ht : frequencyTarget (BitVec.ofNat 32 (valAt env target).asNat) with
    | none =>
      exact ⟨_, _, (s.answers_fail .badFrequency).congr fun s' _ => by
        simp only [State.runHandler, ht]⟩
    | some q =>
      obtain ⟨_, _, goesOn⟩ := ih (env ++ Val.ofQuant (quantize s.cfg.fsys q))
        (s.record [.diag (quantizerReport (quantize s.cfg.fsys q))])
      exact ⟨_, _, goesOn.after.congr fun s' a => by
        simp only [State.runHandler, ht, a.cfg, State.emitDiag_eq_record]⟩

theorem State.refuseArguments_answers (op : U16) (s : State) :
    ∃ events f, s.Answers (State.refuseArguments op) events f := by
  have refused : ∃ e, ∀ s', s.Agrees s' → s'.refuseArguments op = s'.fail e := by
    unfold State.refuseArguments
    rcases hc : category s.cfg op with _ | _ | i | _ | _ | _
    case some.requestGeneric => exact ⟨.invalidArgument, fun s' a => by simp only [a.cfg, hc]⟩
    case some.requestPerInterface =>
      by_cases hi : i ≠ s.cfg.itf
      · exact ⟨.notThisInterface, fun s' a => by simp only [a.cfg, hc, if_pos hi]⟩
      · exact ⟨.invalidArgument, fun s' a => by simp only [a.cfg, hc, if_neg hi]⟩
    all_goals exact ⟨.notARequest, fun s' a => by simp only [a.cfg, hc]⟩
  obtain ⟨e, he⟩ := refused
  exact ⟨_, _, (s.answers_fail e).congr he⟩

theorem State.runTable_answers (f : Frame) (s : State) :
    ∃ events r, s.Answers (State.runTable f) events r := by
  have routed : (∃ e, ∀ s', s.Agrees s' → s'.runTable f = s'.fail e) ∨
      ∃ i e fields, ∀ s', s.Agrees s' → s'.runTable f = s'.runEntry i e fields := by
    unfold State.runTable
    rcases hc : category s.cfg f.opcode with _ | _ | i | _ | _ | _
    case some.requestGeneric =>
      exact .inl ⟨.notThisInterface, fun s' a => by simp only [a.cfg, hc]⟩
    case some.requestPerInterface =>
      by_cases hi : i ≠ s.cfg.itf
      · exact .inl ⟨.notThisInterface, fun s' a => by simp only [a.cfg, hc, if_pos hi]⟩
      · rcases ht : tableRequest (cmdTable s.cfg i) f with (_ | _) | ⟨e, fields⟩
        · exact .inl ⟨.notThisInterface, fun s' a => by simp only [a.cfg, hc, if_neg hi, ht]⟩
        · exact .inl ⟨.invalidArgument, fun s' a => by simp only [a.cfg, hc, if_neg hi, ht]⟩
        · exact .inr ⟨i, e, fields, fun s' a => by simp only [a.cfg, hc, if_neg hi, ht]⟩
    all_goals exact .inl ⟨.notARequest, fun s' a => by simp only [a.cfg, hc]⟩
  obtain ⟨e, he⟩ | ⟨i, e, fields, he⟩ := routed
  · exact ⟨_, _, (s.answers_fail e).congr he⟩
  · obtain ⟨events, r, hr⟩ := s.runHandler_answers i e.handler (fields.map Val.ofField)
    exact ⟨events, r, hr.congr he⟩

end Sys2Proof.Machine
end

section
/-! What each of the 25 messages puts out (43_dispatcher.md R136 to R150), and the frame of a message:
O30. -/

namespace Sys2Proof.Machine

/-- The texts a message of the opcode table may be answered with are within their limit (10_state.md
R22). -/
def State.TextsLegal (s : State) : Prop :=
  reasonsLegal s.cfg.reason = true ∧ s.cfg.version.length ≤ 60

/-- The handler `g` of a message of row `op` puts out reports, if it is the one that runs the quantizer,
then calls of the installed interface, if the row is a request of it, and then sends a frame, one that
fits where the texts are legal. -/
def State.Serves (s : State) (op : Op) (g : State → State) : Prop :=
  ∃ (reports : List DiagEvent) (log : List (PortCall × PortAnswer)) (f : Frame),
    s.Answers g (reports.map .diag ++ log.map .port) f ∧
    (op ≠ .pwmSetFrequency → reports = []) ∧
    (∀ e ∈ log, callItf e.1 = s.cfg.itf ∧ op.requestSet = some (.interface s.cfg.itf)) ∧
    (s.TextsLegal → f.payload.length ≤ Config.payloadCap)

section
variable {s : State} {op : Op} {reports : List DiagEvent} {log : List (PortCall × PortAnswer)}
  {g g' : State → State}

/-- A handler served by reports and calls, and one response behind them. -/
theorem State.Answers.serves {f : Frame}
    (h : (s.record (reports.map .diag ++ log.map .port)).Answers g [] f)
    (hg : ∀ s', s.Agrees s' → g' s' = g (s'.record (reports.map .diag ++ log.map .port)))
    (quiet : op ≠ .pwmSetFrequency → reports = [])
    (own : ∀ e ∈ log, callItf e.1 = s.cfg.itf ∧ op.requestSet = some (.interface s.cfg.itf))
    (fits : s.TextsLegal → f.payload.length ≤ Config.payloadCap) : s.Serves op g' :=
  ⟨reports, log, f, by simpa using h.after.congr hg, quiet, own, fits⟩

/-- A failure that reports nothing, behind reports and calls. -/
theorem State.serves_fail_after (e : Failure) (silent : e.events = [])
    (hg : ∀ s', s.Agrees s' → g s' = (s'.record (reports.map .diag ++ log.map .port)).fail e)
    (quiet : op ≠ .pwmSetFrequency → reports = [])
    (own : ∀ e ∈ log, callItf e.1 = s.cfg.itf ∧ op.requestSet = some (.interface s.cfg.itf)) :
    s.Serves op g := by
  have refused := (s.record (reports.map .diag ++ log.map .port)).answers_fail e
  rw [silent] at refused
  exact refused.serves hg quiet own fun legal => e.response_fits _ legal.1

/-- A response that fits, behind reports and calls. -/
theorem State.serves_send_after (m : Instr)
    (hg : ∀ s', s.Agrees s' → g s' = (s'.record (reports.map .diag ++ log.map .port)).send m)
    (quiet : op ≠ .pwmSetFrequency → reports = [])
    (own : ∀ e ∈ log, callItf e.1 = s.cfg.itf ∧ op.requestSet = some (.interface s.cfg.itf))
    (fits : s.TextsLegal → m.payload.length ≤ Config.payloadCap) : s.Serves op g :=
  (State.answers_sendFrame _ m.toFrame).serves hg quiet own fits

/-- A failure that reports nothing, and that nothing precedes. -/
theorem State.serves_fail (e : Failure) (silent : e.events = [])
    (hg : ∀ s', s.Agrees s' → g s' = s'.fail e) : s.Serves op g :=
  State.serves_fail_after (reports := []) (log := []) e silent (by simpa using hg) (fun _ => rfl)
    (by simp)

/-- A generic request: a response read from the configuration registers. -/
theorem State.serves_send (m : Cfg → Instr)
    (fits : s.TextsLegal → (m s.cfg).payload.length ≤ Config.payloadCap) :
    s.Serves op (fun t => t.send (m t.cfg)) :=
  State.serves_send_after (reports := []) (log := []) (m s.cfg) (fun s' a => by simp [a.cfg])
    (fun _ => rfl) (by simp) fits

theorem State.Serves.congr (h : s.Serves op g)
    (hg : ∀ s', s.Agrees s' → g' s' = g s') : s.Serves op g' := by
  obtain ⟨reports, log, f, answers, rest⟩ := h
  exact ⟨reports, log, f, answers.congr hg, rest⟩

/-- A request of interface `i`, served where `i` is installed and refused elsewhere (R136, R177). -/
theorem State.serves_whenInstalled {i : Itf}
    (h : s.cfg.itf = i → s.Serves op g) : s.Serves op (State.whenInstalled i g) := by
  by_cases hi : s.cfg.itf = i
  · exact (h hi).congr fun s' a => s'.whenInstalled_installed i g (a.cfg ▸ hi)
  · exact State.serves_fail .notThisInterface rfl fun s' a =>
      s'.whenInstalled_other i g (a.cfg ▸ hi)

/-- Calls of a sequence whose operations are all of the installed interface, for a request of it. -/
theorem State.portCalls_own {i : Itf} {cs : List PortCall} (hi : s.cfg.itf = i)
    (hop : op.requestSet = some (.interface i)) (hcs : ∀ c ∈ cs, callItf c = i)
    (hlog : log.map Prod.fst <+: cs) :
    ∀ e ∈ log, callItf e.1 = s.cfg.itf ∧ op.requestSet = some (.interface s.cfg.itf) := by
  subst hi
  exact fun e he => ⟨hcs _ (hlog.subset (List.mem_map_of_mem he)), hop⟩

/-- A request served by one port call (R137, R143 to R148). -/
theorem State.serves_callAndReply {i : Itf} {c : PortCall}
    {reply : PortVal → Instr} (hop : op.requestSet = some (.interface i)) (hc : callItf c = i)
    (fits : ∀ v, (reply v).payload.length ≤ Config.payloadCap) :
    s.Serves op (State.whenInstalled i (State.callAndReply c reply)) := by
  refine State.serves_whenInstalled fun hi => ?_
  have own := State.portCalls_own (cs := [c]) (log := [(c, s.portAnswer c)]) hi hop (by simpa) (by simp)
  cases ha : s.portAnswer c with
  | err =>
    exact State.serves_fail_after (reports := []) .hwFailure rfl
      (fun s' a => by simp [State.callAndReply, a.portAnswer, a.afterPort, ha]) (fun _ => rfl) own
  | ok v =>
    exact State.serves_send_after (reports := []) (reply v)
      (fun s' a => by simp [State.callAndReply, a.portAnswer, a.afterPort, ha]) (fun _ => rfl) own
      fun _ => fits v

/-- The set-frequency handler: the report, then the commit's calls (R149, R167). -/
theorem State.serves_setFrequency (channel : Byte) (value : F32)
    (hi : s.cfg.itf = .pwm) : s.Serves .pwmSetFrequency (State.setFrequency channel value) := by
  cases ht : frequencyTarget value with
  | none => exact State.serves_fail .badFrequency rfl fun s' _ => by simp only [State.setFrequency, ht]
  | some f =>
    obtain ⟨log, vs, hlog, hall⟩ := State.portAll_of_agrees
      (commitCalls channel (quantize s.cfg.fsys f))
      (s.record [.diag (quantizerReport (quantize s.cfg.fsys f))])
    have ran : ∀ s', s.Agrees s' → _ := fun s' a => hall _ (a.record _)
    have own := State.portCalls_own (op := .pwmSetFrequency) hi rfl (by simp [commitCalls, callItf]) hlog
    cases vs with
    | none =>
      exact State.serves_fail_after (reports := [quantizerReport (quantize s.cfg.fsys f)]) .hwFailure rfl
        (fun s' a => by simp [State.setFrequency, ht, a.cfg, State.emitDiag_eq_record, ran s' a])
        (absurd rfl) own
    | some vs =>
      exact State.serves_send_after (reports := [quantizerReport (quantize s.cfg.fsys f)])
        (.respPwmFreq channel (rne32 (quantize s.cfg.fsys f).achievedFrequency))
        (fun s' a => by simp [State.setFrequency, ht, a.cfg, State.emitDiag_eq_record, ran s' a])
        (absurd rfl) own fun _ => by simp [Instr.payload, Config.payloadCap]

/-- The get-frequency handler: four calls, and a check of what they answered (R150). -/
theorem State.serves_getFrequency (channel : Byte) (hi : s.cfg.itf = .pwm) :
    s.Serves .pwmGetFrequency (State.getFrequency channel) := by
  obtain ⟨log, vs, hlog, ran⟩ := State.portAll_of_agrees (readCalls channel) s
  have own := State.portCalls_own (op := .pwmGetFrequency) hi rfl (by simp [readCalls, callItf]) hlog
  cases vs with
  | none =>
    exact State.serves_fail_after (reports := []) .hwFailure rfl
      (fun s' a => by simp [State.getFrequency, ran s' a]) (fun _ => rfl) own
  | some vs =>
    obtain ⟨_, _, _, _, _, whole⟩ := State.portAll_cases (readCalls channel) s
    have four : vs.length = 4 := (whole vs (by rw [ran s (.refl s)])).2
    obtain ⟨top, di, df, pc, rfl⟩ := List.length_eq_four.1 four
    by_cases bad : di.num = 0 ∨ 15 < df.num.toNat
    · exact State.serves_fail_after (reports := []) .hwValueRange rfl
        (fun s' a => by
          simp only [State.getFrequency, ran s' a, if_pos bad, List.map_nil, List.nil_append])
        (fun _ => rfl) own
    · exact State.serves_send_after (reports := [])
        (.respPwmFreq channel (rne32 (pwmFrequency s.cfg.fsys top.num.toNat (pc.num.getLsbD 0)
          di.num.toNat df.num.toNat)))
        (fun s' a => by
          simp only [State.getFrequency, ran s' a, if_neg bad, a.cfg, List.map_nil, List.nil_append])
        (fun _ => rfl) own
        fun _ => by simp [Instr.payload, Config.payloadCap]

end

/-- Every message of the table is served by a handler of the shape `State.Serves` (R136). -/
theorem exec_serves (i : Instr) (s : State) :
    ∃ g : State → State, (∀ t, exec i t = .next (g t)) ∧ s.Serves i.op g := by
  cases i with
  | ping => exact ⟨_, fun _ => rfl, State.serves_send (fun _ => .good) fun _ => Nat.zero_le _⟩
  | itfType =>
    exact ⟨_, fun _ => rfl, State.serves_send (fun c => .respItfType c.itfTag) fun _ => by
      simp [Instr.payload, Config.payloadCap]⟩
  | version =>
    exact ⟨_, fun _ => rfl, State.serves_send (fun c => .respVersion c.version) fun legal =>
      legal.2.trans (by decide)⟩
  | idGet =>
    exact ⟨_, fun _ => rfl, State.serves_send (fun c => .respId c.deviceId) fun _ => by
      simp [Instr.payload, Id8.toBytes, Config.payloadCap]⟩
  | gpioDirSet | gpioDirGet | gpioWrite | gpioRead | pwmSetDutyCycle | pwmGetDutyCycle =>
    exact ⟨_, fun _ => rfl, State.serves_callAndReply rfl rfl fun _ => by
      simp [Instr.payload, Config.payloadCap]⟩
  | pwmSetFrequency channel value =>
    exact ⟨_, fun _ => rfl, State.serves_whenInstalled (State.serves_setFrequency channel value)⟩
  | pwmGetFrequency channel =>
    exact ⟨_, fun _ => rfl, State.serves_whenInstalled (State.serves_getFrequency channel)⟩
  | _ => exact ⟨_, fun _ => rfl, State.serves_fail .notARequest rfl fun _ _ => rfl⟩

/-- Settles O30: the handler of the message records its reports and calls, sends one frame behind them,
and changes nothing else. -/
theorem messagesWriteNoBlockState : Obligations.MessagesWriteNoBlockState := by
  unfold Obligations.MessagesWriteNoBlockState
  intro i s t ht
  obtain ⟨g, hg, reports, log, f, answers, quiet, own, fits⟩ := exec_serves i s
  obtain rfl : g s = t := by simpa [hg] using ht
  have result : g s = (s.record _).setEnc [] :=
    (answers s (.refl s)).trans (by rw [State.sendFrame_eq, State.record_record])
  rw [result]
  refine ⟨rfl, rfl, rfl, rfl, rfl, rfl, rfl, rfl, rfl, ?tx, ?oneMessage, ?diag, ?order, ?calls, ?legal⟩
  case tx => simp
  case oneMessage => simpa using List.length_filterMap_le _ [sentEvent f.toBytes]
  case diag => simp
  case order =>
    refine ⟨reports.map .diag ++ log.map .port, sentEvent f.toBytes, by simp, fun e he => ?_,
      sentEvent_call? _⟩
    obtain report | call := List.mem_append.1 he
    · obtain ⟨_, -, rfl⟩ := List.mem_map.1 report
      rfl
    · exact message?_of_mem_port log e call
  case calls =>
    exact ⟨log, by simp, by simp, by simp, own⟩
  case legal =>
    intro hr hv
    have sent := sentEvent_of_fits (fits ⟨hr, hv⟩)
    refine ⟨by simp [sent], fun hop => ?_⟩
    simp [sent, quiet hop]

end Sys2Proof.Machine
end

section
/-! What one step reads and keeps (10_state.md R22 to R25, R33 to R35; 43_dispatcher.md R154;
70_reset_and_hazards.md R191). -/

namespace Sys2Proof.Machine

/-! ## Frame handling -/

/-- What handling a raw frame does, on every state that agrees with `s`: events put out, the encoder
empty. -/
theorem handleFrame_answers (raw : Bytes) (s : State) :
    ∃ es, ∀ s', s.Agrees s' → handleFrame raw s' = .next ((s'.record es).setEnc []) := by
  have handled : ∃ g events f, s.Answers g events f ∧
      ∀ s', s.Agrees s' → handleFrame raw s' = .next (g s') := by
    cases hf : Frame.fromBytes (knownOpcode s.cfg) raw with
    | error e =>
      exact ⟨_, _, _, s.answers_fail (.frame e), fun s' a => by simp only [handleFrame, a.cfg, hf]⟩
    | ok f =>
      have routed : ∀ s', s.Agrees s' → handleFrame raw s' = processFrame f s' :=
        fun s' a => by simp only [handleFrame, a.cfg, hf]
      rcases hm : f.message with (op | op) | i
      · obtain ⟨events, r, answers⟩ := s.runTable_answers f
        exact ⟨_, events, r, answers, fun s' a => by rw [routed s' a, processFrame, hm]⟩
      · obtain ⟨events, r, answers⟩ := s.refuseArguments_answers f.opcode
        exact ⟨_, events, r, answers, fun s' a => by rw [routed s' a, processFrame, hm]⟩
      · obtain ⟨g, hg, reports, log, r, answers, -⟩ := exec_serves i s
        exact ⟨g, _, r, answers, fun s' a => by rw [routed s' a, processFrame, hm]; exact hg s'⟩
  obtain ⟨g, events, f, answers, hg⟩ := handled
  refine ⟨events ++ [sentEvent f.toBytes], fun s' a => ?_⟩
  rw [hg s' a, answers s' a, State.sendFrame_eq, State.record_record]

/-! ## Other inputs and other outputs -/

/-- `s` with other CFG inputs and other outputs put out before. -/
def State.withIO (p : CfgParams) (o : List OutEvent) (s : State) : State :=
  { s with cfgIn := p, out := o }

@[simp] theorem State.withIO_dec (p : CfgParams) (o : List OutEvent) (s : State) :
    (s.withIO p o).dec = s.dec := rfl

@[simp] theorem State.withIO_rx (p : CfgParams) (o : List OutEvent) (s : State) :
    (s.withIO p o).rx = s.rx := rfl

@[simp] theorem State.withIO_out (p : CfgParams) (o : List OutEvent) (s : State) :
    (s.withIO p o).out = o := rfl

@[simp] theorem State.withIO_pending (p : CfgParams) (o : List OutEvent) (s : State) :
    (s.withIO p o).pending = s.pending := rfl

theorem State.withIO_advance (p : CfgParams) (o : List OutEvent) (n : Nat) (s : State) :
    (s.withIO p o).advance n = (s.advance n).withIO p o := by
  unfold State.advance
  rw [apply_ite (State.withIO p o)]
  rfl

theorem State.withIO_loseResponse (p : CfgParams) (o es : List OutEvent) (s : State) :
    (s.withIO p (o ++ es)).loseResponse o =
      s.withIO p (o ++ es.filter fun e => e.message?.isNone) := by
  simp [State.loseResponse, State.withIO]

theorem State.advance_cfg (s : State) (n : Nat) : (s.advance n).cfg = s.cfg := by
  obtain ⟨-, h⟩ | ⟨-, h⟩ := s.advance_cases n <;> rw [h]

theorem loopStep_of_pending {s : State} (h : s.pending ≠ []) : loopStep s = feedRound s := by
  obtain ⟨b, rest, hp⟩ := List.exists_cons_of_ne_nil h
  simp only [loopStep, hp]

/-- A step of the control loop keeps the configuration registers; with other CFG inputs and other
outputs before it, it puts out the same events and leads to the same state but for these (R33, R34). -/
theorem loopStep_withIO {s t : State} (h : loopStep s = .next t) :
    t.cfg = s.cfg ∧ ∃ es, ∀ p o, loopStep (s.withIO p o) = .next (t.withIO p (o ++ es)) := by
  rcases loopStep_cases s with ⟨hp, hr, hs⟩ | ⟨c, rest, hp, hr, hs⟩ | ⟨n, d, hp, hf, hs⟩ |
    ⟨n, d, u, hp, hf, hu, hs⟩ | ⟨e, k, d, hp, hf, hs⟩ <;>
    obtain rfl := Host.Outcome.next.inj (hs.symm.trans h)
  case inl => exact ⟨rfl, [], fun p o => by simp [loopStep, hp, hr]⟩
  case inr.inl =>
    refine ⟨rfl, [], fun p o => ?_⟩
    simp only [loopStep, State.withIO_pending, State.withIO_rx, hp, hr, List.append_nil]
    rfl
  case inr.inr.inl =>
    refine ⟨State.advance_cfg .., [], fun p o => ?_⟩
    rw [loopStep_of_pending (s := s.withIO p o) hp, ← State.withIO_advance]
    simp only [feedRound, State.withIO_pending, State.withIO_dec, hf, List.append_nil]
    rfl
  case inr.inr.inr.inl =>
    obtain ⟨es, handled⟩ := handleFrame_answers d.acc (s.setDec d)
    obtain rfl := Host.Outcome.next.inj (hu.symm.trans (handled _ (.refl _)))
    refine ⟨State.advance_cfg .., es, fun p o => ?_⟩
    rw [loopStep_of_pending (s := s.withIO p o) hp, ← State.withIO_advance]
    simp only [feedRound, State.withIO_pending, State.withIO_dec, hf,
      handled ((s.withIO p o).setDec d) ⟨rfl, rfl, rfl⟩]
    rfl
  case inr.inr.inr.inr =>
    refine ⟨State.advance_cfg .., [.diag (.transportError e k)], fun p o => ?_⟩
    rw [loopStep_of_pending (s := s.withIO p o) hp, ← State.withIO_advance]
    simp only [feedRound, State.withIO_pending, State.withIO_dec, hf]
    rfl

/-- A step of the control loop keeps the CFG inputs and only appends to the outputs. -/
theorem loopStep_keeps {s t : State} (h : loopStep s = .next t) :
    t.cfg = s.cfg ∧ t.cfgIn = s.cfgIn ∧ ∃ es, t.out = s.out ++ es ∧
      ∀ p o, loopStep (s.withIO p o) = .next (t.withIO p (o ++ es)) := by
  obtain ⟨hcfg, es, hio⟩ := loopStep_withIO h
  have ht : t = t.withIO s.cfgIn (s.out ++ es) :=
    Host.Outcome.next.inj (h.symm.trans (hio s.cfgIn s.out))
  have hin : t.cfgIn = (t.withIO s.cfgIn (s.out ++ es)).cfgIn := congrArg State.cfgIn ht
  have hout : t.out = (t.withIO s.cfgIn (s.out ++ es)).out := congrArg State.out ht
  exact ⟨hcfg, hin, es, hout, hio⟩

/-! ## Steps and resets -/

/-- What a step can do: a step of the control loop, a reset at once, or a reset behind a step of the
control loop whose response is lost (R191). -/
theorem step_next_cases {s t : State} (h : step s = .next t) :
    (s.resetReq = .none ∧ loopStep s = .next t) ∨
    (s.resetReq = .atOnce ∧ t = s.takeReset) ∨
    (s.resetReq = .beforeSend ∧
      ∃ u, loopStep s = .next u ∧ t = (u.loseResponse s.out).takeReset) := by
  cases hr : s.resetReq with
  | none => exact .inl ⟨rfl, (step_of_noReset s hr).symm.trans h⟩
  | atOnce => exact .inr (.inl ⟨rfl, Host.Outcome.next.inj (h.symm.trans (step_atOnce s hr))⟩)
  | beforeSend =>
    obtain ⟨u, hu⟩ : ∃ u, loopStep s = .next u := by
      rcases loopStep_cases s with ⟨-, -, hs⟩ | ⟨_, _, -, -, hs⟩ | ⟨_, _, -, -, hs⟩ |
        ⟨_, _, _, -, -, -, hs⟩ | ⟨_, _, _, -, -, hs⟩ <;> exact ⟨_, hs⟩
    exact .inr (.inr ⟨rfl, u, hu,
      Host.Outcome.next.inj (h.symm.trans (step_beforeSend s u hr hu))⟩)

/-- Settles O54: a step of the control loop appends events that do not depend on the outputs before
it; a reset puts out nothing, and takes back a response of that step's own events only. -/
theorem diagIsOnlyAnOutput : Obligations.DiagIsOnlyAnOutput := by
  unfold Obligations.DiagIsOnlyAnOutput
  intro s t o h
  obtain ⟨hr, hl⟩ | ⟨hr, rfl⟩ | ⟨hr, u, hl, rfl⟩ := step_next_cases h
  · obtain ⟨-, hin, es, hout, hio⟩ := loopStep_keeps hl
    refine ⟨es, hout, ?_⟩
    change step (s.withIO s.cfgIn o) = .next (t.withIO t.cfgIn (o ++ es))
    rw [step_of_noReset (s.withIO s.cfgIn o) hr, hin, hio]
  · exact ⟨[], (List.append_nil _).symm, by rw [List.append_nil]; exact step_atOnce _ hr⟩
  · obtain ⟨-, hin, es, hout, hio⟩ := loopStep_keeps hl
    refine ⟨_, State.loseResponse_out hout, ?_⟩
    change step (s.withIO s.cfgIn o) = _
    rw [step_beforeSend (s.withIO s.cfgIn o) _ hr (hio s.cfgIn o), State.withIO_out,
      State.withIO_loseResponse, ← hin]
    rfl

/-- Settles O57: both kinds of reset sample the CFG inputs, and a step of the control loop neither
reads nor changes them. -/
theorem configIsSampledAtResetOnly : Obligations.ConfigIsSampledAtResetOnly := by
  unfold Obligations.ConfigIsSampledAtResetOnly
  intro s t h
  obtain ⟨hr, hl⟩ | ⟨hr, rfl⟩ | ⟨hr, u, hl, rfl⟩ := step_next_cases h
  · obtain ⟨hcfg, -, es, hout, hio⟩ := loopStep_keeps hl
    refine ⟨absurd hr, fun _ => ⟨hcfg, fun p => ?_⟩⟩
    change step (s.withIO p s.out) = .next (t.withIO p t.out)
    rw [step_of_noReset (s.withIO p s.out) hr, hout, hio]
  · exact ⟨fun _ => rfl, fun absent => by simp [hr] at absent⟩
  · exact ⟨fun _ => (loopStep_keeps hl).2.1, fun absent => by simp [hr] at absent⟩

/-- Settles O56: a reset at once is `State.takeReset`, and a step without a reset is one of the control
loop, which keeps all configuration registers. -/
theorem resetLeavesSpecValues : Obligations.ResetLeavesSpecValues := by
  unfold Obligations.ResetLeavesSpecValues
  refine ⟨fun s hr => step_atOnce s hr, fun s t hr h => ?_, rfl, rfl, rfl, rfl, rfl⟩
  rw [step_of_noReset s hr] at h
  rw [(loopStep_keeps h).1]

/-! ## The invariant -/

theorem State.Inv.setDec {s : State} (h : s.Inv) {d : Dec} (hd : d.acc.length ≤ Config.decCap) :
    (s.setDec d).Inv :=
  ⟨hd, h.enc, h.cursor, h.cfg, h.cfgIn⟩

theorem State.Inv.decReset {s : State} (h : s.Inv) : s.decReset.Inv := h.setDec (Nat.zero_le _)

theorem State.Inv.record_setEnc_nil {s : State} (h : s.Inv) (es : List OutEvent) :
    ((s.record es).setEnc []).Inv :=
  ⟨h.acc, rfl, h.cursor, h.cfg, h.cfgIn⟩

theorem State.Inv.transportFail {s : State} (h : s.Inv) (e : TransportErr) (k : Nat) :
    (s.transportFail e k).Inv :=
  ⟨Nat.zero_le _, h.enc, h.cursor, h.cfg, h.cfgIn⟩

theorem State.Inv.takeChunk {s : State} (h : s.Inv) (c : Bytes) (rest : List Bytes) :
    (s.takeChunk c rest).Inv := by
  refine ⟨h.acc, h.enc, ?_, h.cfg, h.cfgIn⟩
  cases c with
  | nil => exact .inl ⟨rfl, rfl⟩
  | cons b c => exact .inr (Nat.succ_pos _)

theorem State.Inv.advance {s : State} (h : s.Inv) (n : Nat) : (s.advance n).Inv := by
  obtain ⟨inside, hs⟩ | ⟨-, hs⟩ := s.advance_cases n <;> rw [hs]
  · exact ⟨h.acc, h.enc, .inr inside, h.cfg, h.cfgIn⟩
  · exact ⟨h.acc, h.enc, .inl ⟨rfl, rfl⟩, h.cfg, h.cfgIn⟩

/-- A reset needs only legal inputs to lead to the invariant. -/
theorem State.takeReset_inv {s : State} (h : cfgLegal s.cfgIn = true) : s.takeReset.Inv :=
  ⟨Nat.zero_le _, rfl, .inl ⟨rfl, rfl⟩, h, h⟩

theorem State.powerOn_inv {p : CfgParams} (h : cfgLegal p = true) : (State.powerOn p).Inv :=
  ⟨Nat.zero_le _, rfl, .inl ⟨rfl, rfl⟩, h, h⟩

theorem State.Inv.decFeed_acc {s : State} (h : s.Inv) {r : FeedResult} {d : Dec}
    (hf : decFeed Config.decCap s.dec s.pending = (r, d)) : d.acc.length ≤ Config.decCap := by
  have := (decFeedFrom_acc Config.decCap 0 s.dec s.pending).2 h.acc
  rwa [← decFeed, hf] at this

theorem State.Inv.loopStep {s t : State} (h : s.Inv) (ht : loopStep s = .next t) : t.Inv := by
  rcases loopStep_cases s with ⟨-, -, hs⟩ | ⟨c, rest, -, -, hs⟩ | ⟨n, d, -, hf, hs⟩ |
    ⟨n, d, u, -, hf, hu, hs⟩ | ⟨e, k, d, -, hf, hs⟩ <;>
    obtain rfl := Host.Outcome.next.inj (hs.symm.trans ht)
  case inl => exact h
  case inr.inl => exact h.takeChunk c rest
  case inr.inr.inl => exact (h.setDec (h.decFeed_acc hf)).advance n
  case inr.inr.inr.inl =>
    obtain ⟨es, handled⟩ := handleFrame_answers d.acc (s.setDec d)
    obtain rfl := Host.Outcome.next.inj (hu.symm.trans (handled _ (.refl _)))
    exact ((h.setDec (h.decFeed_acc hf)).record_setEnc_nil es).decReset.advance n
  case inr.inr.inr.inr => exact ((h.setDec (h.decFeed_acc hf)).transportFail e k).advance (k + 1)

/-- Settles O59: a step of the control loop keeps the invariant, and a reset restores it from the CFG
inputs, which no step changes. -/
theorem everyStepKeepsInv : Obligations.EveryStepKeepsInv := by
  unfold Obligations.EveryStepKeepsInv
  intro s t hinv h
  obtain ⟨-, hl⟩ | ⟨-, rfl⟩ | ⟨-, u, hl, rfl⟩ := step_next_cases h
  · exact hinv.loopStep hl
  · exact State.takeReset_inv hinv.cfgIn
  · exact State.takeReset_inv (hinv.loopStep hl).cfgIn

/-- The default parameters of every build are legal (R9 to R13). -/
theorem cfgLegal_paramsFor (itf : Itf) : cfgLegal (Config.paramsFor itf) = true := by
  cases itf <;> decide +kernel

/-- Settles O60: a power-on with legal parameters meets the invariant, and the defaults are legal. -/
theorem powerOnHasInv : Obligations.PowerOnHasInv := by
  unfold Obligations.PowerOnHasInv
  exact ⟨State.powerOn_inv (cfgLegal_paramsFor .gpio),
    fun itf => State.powerOn_inv (cfgLegal_paramsFor itf)⟩

end Sys2Proof.Machine
end

section
/-! The bounds of the buffers (20_memory.md R49): the accumulator, the encoder buffer, and the payload of
a parsed frame. -/

namespace Sys2Proof

/-! ## Accumulator -/

theorem decFeed_acc (cap : Nat) (d : Dec) (input : Bytes) (h : d.acc.length ≤ cap) :
    (decFeed cap d input).2.acc.length ≤ cap ∧ d.acc <+: (decFeed cap d input).2.acc := by
  obtain ⟨⟨more, appended⟩, bounded⟩ := decFeedFrom_acc cap 0 d input
  exact ⟨bounded h, more, appended.symm⟩

theorem decFeed_of_full (d : Dec) (b v : Byte) (rest : Bytes) (h : byteClass d.esc b = .data v) :
    decFeed d.acc.length d (b :: rest) = (.err .bufferFull 0, d) := by
  simp [decFeed, decFeedFrom, h]

/-! ## Encoder buffer -/

/-- `ENC.feed` leaves, within the capacity, the old contents followed by the stuffing of whole bytes: a
two-byte escape is never split (R82). -/
theorem encFeed_buf (cap : Nat) (buf input : Bytes) (h : buf.length ≤ cap) :
    ∃ n, (encFeed cap buf input).2 = buf ++ (input.take n).flatMap stuff ∧
      (encFeed cap buf input).2.length ≤ cap := by
  obtain ⟨fed, fits⟩ | ⟨n, -, fed, fits, -⟩ := encFeedFrom_cases cap 0 buf input h
  · exact ⟨input.length, by simp [encFeed, fed], by simpa [encFeed, fed] using fits⟩
  · exact ⟨n, by simp [encFeed, fed], by simpa [encFeed, fed] using fits⟩

theorem encFeed_of_no_room (cap : Nat) (buf rest : Bytes) (b : Byte)
    (h : cap < buf.length + (stuff b).length) :
    encFeed cap buf (b :: rest) = (.bufferFull 0, buf) := if_pos h

/-- What `ENC.finish` can do: refuse on a full buffer, or append `END` where it fits (R83). -/
theorem encFinish_cases (cap : Nat) (buf : Bytes) :
    (cap < buf.length + 1 ∧ encFinish cap buf = (.bufferFull 0, buf)) ∨
      (buf.length + 1 ≤ cap ∧ encFinish cap buf = (.ok 0, buf ++ [bEND])) := by
  by_cases full : buf.length + 1 > cap
  · exact .inl ⟨full, if_pos full⟩
  · exact .inr ⟨Nat.le_of_not_gt full, if_neg full⟩

theorem encFinish_buf (cap : Nat) (buf : Bytes) (h : buf.length ≤ cap) :
    (encFinish cap buf).2.length ≤ cap ∧ buf <+: (encFinish cap buf).2 := by
  obtain ⟨-, refused⟩ | ⟨room, finished⟩ := encFinish_cases cap buf
  · rw [refused]
    exact ⟨h, [], List.append_nil buf⟩
  · rw [finished]
    exact ⟨by simpa using room, [bEND], rfl⟩

/-! ## Payload -/

theorem Frame.take_toBytes (f : Frame) :
    f.toBytes.take (f.toBytes.length - 2) = be16 f.opcode ++ f.payload :=
  List.take_left' (by simp [Frame.toBytes, Nat.add_comm])

theorem Frame.drop_toBytes (f : Frame) :
    f.toBytes.drop (f.toBytes.length - 2) = be16 f.checksum :=
  List.drop_left' (by simp [Frame.toBytes, Nat.add_comm])

theorem Frame.u16At_toBytes (f : Frame) : u16At f.toBytes = f.opcode := by
  rw [Frame.toBytes, List.append_assoc, u16At_be16_append]

/-- Parsing what a frame serialises to: the checksum matches, and the frame is refused only for an
unknown opcode or a payload past the capacity (R94, R96). -/
theorem Frame.fromBytes_toBytes (known : U16 → Bool) (f : Frame) :
    Frame.fromBytes known f.toBytes =
      if known f.opcode = false then .error (.unknownOpcode f.opcode)
      else if f.payload.length > Config.payloadCap then .error .tooShort
      else .ok f := by
  have long : ¬ f.toBytes.length < 4 := by
    rw [Frame.toBytes_length]
    omega
  have payload : (be16 f.opcode ++ f.payload).drop 2 = f.payload := rfl
  have sumOk : ¬ f.checksum ≠ crc16 (be16 f.opcode ++ f.payload) := not_not.mpr rfl
  simp only [Frame.fromBytes, if_neg long, Frame.take_toBytes, Frame.drop_toBytes,
    Frame.u16At_toBytes, u16At_be16, if_neg sumOk, payload]

/-- Settles O16: feeds and finish append within the capacity or refuse, and the frame parser checks the
payload length last. -/
theorem buffersKeepTheirCapacity : Obligations.BuffersKeepTheirCapacity := by
  unfold Obligations.BuffersKeepTheirCapacity
  refine ⟨decFeed_acc, decFeed_of_full, fun cap buf input h => ?encoder, encFeed_of_no_room,
    fun known raw f parsed => ?parsed, fun known f hknown long => ?oversized⟩
  case encoder =>
    obtain ⟨n, appended, bounded⟩ := encFeed_buf cap buf input h
    exact ⟨bounded, ⟨_, appended.symm⟩, encFinish_buf cap buf h⟩
  case parsed =>
    obtain ⟨-, -, bounded, -⟩ := Frame.fromBytes_ok parsed
    exact bounded
  case oversized =>
    rw [Frame.fromBytes_toBytes, hknown, if_neg (by decide), if_pos long]

end Sys2Proof
end

section
/-! What the decoder makes of stuffed bytes, and how long they are (30_encoding.md R56; 40_transport_codec.md
R78, R87, R89). -/

namespace Sys2Proof

/-! ## Length of a wire message -/

theorem stuff_length (b : Byte) :
    (stuff b).length = if b == bEND || b == bESC then 2 else 1 := by
  rcases stuff_cases b with ⟨rfl, h⟩ | ⟨rfl, h⟩ | ⟨notEnd, notEsc, h⟩ <;> rw [h]
  · rfl
  · rfl
  · simp [notEnd, notEsc]

theorem flatMap_stuff_length (raw : Bytes) :
    (raw.flatMap stuff).length = raw.length + raw.countP (fun b => b == bEND || b == bESC) := by
  induction raw with
  | nil => rfl
  | cons b rest ih =>
    rw [List.flatMap_cons, List.length_append, ih, stuff_length, List.countP_cons, List.length_cons]
    split <;> omega

theorem wire_length (raw : Bytes) : (wire raw).length = (raw.flatMap stuff).length + 1 := by
  simp [wire]

/-- Settles O13: one byte more for each byte that is escaped, and one for `END`. -/
theorem stuffedLength : Obligations.StuffedLength := by
  unfold Obligations.StuffedLength
  refine fun raw => ⟨?_, wire_length_le raw⟩
  rw [wire_length, flatMap_stuff_length]
  rfl

/-! ## Decoding a wire message -/

/-- The decoder takes back the byte that `stuff` wrote (R78). -/
theorem decFeedFrom_stuff (cap k : Nat) (acc rest : Bytes) (b : Byte) (room : acc.length ≠ cap) :
    decFeedFrom cap k ⟨acc, false⟩ (stuff b ++ rest) =
      decFeedFrom cap (k + (stuff b).length) ⟨acc ++ [b], false⟩ rest := by
  rcases stuff_cases b with ⟨rfl, h⟩ | ⟨rfl, h⟩ | ⟨notEnd, notEsc, h⟩ <;> rw [h]
  · simp [decFeedFrom, byteClass, bEND, bESC, bESC_END, room]
  · simp [decFeedFrom, byteClass, bEND, bESC, bESC_END, bESC_ESC, room]
  · simp [decFeedFrom, byteClass, notEnd, notEsc, room]

theorem decFeedFrom_flatMap_stuff (cap k : Nat) (acc raw rest : Bytes)
    (room : acc.length + raw.length ≤ cap) :
    decFeedFrom cap k ⟨acc, false⟩ (raw.flatMap stuff ++ rest) =
      decFeedFrom cap (k + (raw.flatMap stuff).length) ⟨acc ++ raw, false⟩ rest := by
  induction raw generalizing k acc with
  | nil => simp
  | cons b raw ih =>
    rw [List.length_cons] at room
    rw [List.flatMap_cons, List.append_assoc, decFeedFrom_stuff _ _ _ _ _ (by omega),
      ih _ _ (by simp only [List.length_append, List.length_singleton]; omega)]
    simp [Nat.add_assoc]

/-- A decoder after its reset completes the frame at the `END` of a wire message whose raw frame fits
(R87). -/
theorem decFeed_wire {cap : Nat} {raw : Bytes} (room : raw.length ≤ cap) :
    decFeed cap Dec.empty (wire raw) = (.ok (wire raw).length true, ⟨raw, false⟩) := by
  have stuffed := decFeedFrom_flatMap_stuff cap 0 [] raw [bEND] (by simpa using room)
  rw [decFeed, wire, Dec.empty, stuffed, ← wire, wire_length]
  simp [decFeedFrom, byteClass]

end Sys2Proof
end

section
/-! The cursor over a payload with bytes behind it (30_encoding.md R71; 41_frame_protocol.md R99). -/

namespace Sys2Proof

/-- The same cursor over a payload with `extra` behind it. -/
def ArgParser.extend (p : ArgParser) (extra : Bytes) : ArgParser := { p with buf := p.buf ++ extra }

theorem ArgParser.new_append (payload extra : Bytes) :
    ArgParser.new (payload ++ extra) = (ArgParser.new payload).extend extra := rfl

section
variable {p p' : ArgParser}

theorem ArgParser.consumeVector_extend {n : Nat} {v : Bytes}
    (h : p.consumeVector n = some (v, p')) (extra : Bytes) :
    (p.extend extra).consumeVector n = some (v, p'.extend extra) := by
  unfold ArgParser.consumeVector at h
  split at h
  next => cases h
  next enough =>
    cases h
    have inside : p.pos + n ≤ p.buf.length := Nat.le_of_not_gt enough
    have long : ¬ (p.extend extra).pos + n > (p.extend extra).buf.length := by
      simp only [ArgParser.extend, List.length_append]
      omega
    have same : bufRead (p.buf ++ extra) p.pos n = bufRead p.buf p.pos n := by
      rw [bufRead, List.drop_append_of_le_length (by omega),
        List.take_append_of_le_length (by rw [List.length_drop]; omega), bufRead]
    rw [ArgParser.consumeVector, if_neg long]
    simp only [ArgParser.extend, same]

theorem ArgParser.consumeU8_extend {b : Byte} (h : p.consumeU8 = some (b, p')) (extra : Bytes) :
    (p.extend extra).consumeU8 = some (b, p'.extend extra) := by
  unfold ArgParser.consumeU8 at h
  split at h
  next read =>
    cases h
    simp only [ArgParser.consumeU8, ArgParser.consumeVector_extend read]
  next => cases h

theorem ArgParser.consumeF32_extend {v : F32} (h : p.consumeF32 = some (v, p')) (extra : Bytes) :
    (p.extend extra).consumeF32 = some (v, p'.extend extra) := by
  unfold ArgParser.consumeF32 ArgParser.consumeU32 at h
  split at h
  next read =>
    cases h
    simp only [ArgParser.consumeF32, ArgParser.consumeU32, ArgParser.consumeVector_extend read]
  next => cases h

theorem ArgParser.consumeId8_extend {v : Id8} (h : p.consumeId8 = some (v, p')) (extra : Bytes) :
    (p.extend extra).consumeId8 = some (v, p'.extend extra) := by
  unfold ArgParser.consumeId8 at h
  split at h
  next read =>
    obtain ⟨id, hid, heq⟩ := Option.map_eq_some_iff.1 h
    cases heq
    simp [ArgParser.consumeId8, ArgParser.consumeVector_extend read, hid]
  next => cases h

end

/-! ## The decode shapes of the rows -/

section
variable {p : ArgParser} {i : Instr}

theorem decodeU8_extend {mk : Byte → Instr} (h : decodeU8 mk p = some i) (extra : Bytes) :
    decodeU8 mk (p.extend extra) = some i := by
  unfold decodeU8 at h
  split at h
  next => cases h
  next first => simpa only [decodeU8, ArgParser.consumeU8_extend first] using h

theorem decodeU8U8_extend {mk : Byte → Byte → Instr} (h : decodeU8U8 mk p = some i)
    (extra : Bytes) : decodeU8U8 mk (p.extend extra) = some i := by
  unfold decodeU8U8 at h
  split at h
  next => cases h
  next first =>
    split at h
    next => cases h
    next second =>
      simpa only [decodeU8U8, ArgParser.consumeU8_extend first, ArgParser.consumeU8_extend second]
        using h

theorem decodeU8F32_extend {mk : Byte → F32 → Instr} (h : decodeU8F32 mk p = some i)
    (extra : Bytes) : decodeU8F32 mk (p.extend extra) = some i := by
  unfold decodeU8F32 at h
  split at h
  next => cases h
  next first =>
    split at h
    next => cases h
    next second =>
      simpa only [decodeU8F32, ArgParser.consumeU8_extend first, ArgParser.consumeF32_extend second]
        using h

/-- A row without a `text` field reads the same message whatever stands behind its last field (R71). -/
theorem Op.decodeArgs_extend {o : Op} (noText : FieldTy.text ∉ o.layout)
    (h : o.decodeArgs p = some i) (extra : Bytes) : o.decodeArgs (p.extend extra) = some i := by
  cases o with
  | gpioDirGet | gpioRead | pwmGetDutyCycle | pwmGetFrequency | respItfType =>
    exact decodeU8_extend h extra
  | gpioDirSet | gpioWrite | respGpioDir | respGpioValue => exact decodeU8U8_extend h extra
  | pwmSetDutyCycle | pwmSetFrequency | respPwmDuty | respPwmFreq =>
    exact decodeU8F32_extend h extra
  | respId =>
    obtain ⟨⟨id, p'⟩, read, made⟩ := Option.map_eq_some_iff.1 h
    exact Option.map_eq_some_iff.2 ⟨_, ArgParser.consumeId8_extend read extra, made⟩
  | errGeneric | errInvalidArgs | respVersion => simp [Op.layout] at noText
  | ping | itfType | version | idGet | good | errCRC | errUnknownCode | errBusy => exact h

end

/-- Settles O7: a `text` field is the rest of the payload from its start; every other field is read from
bytes that stay where they are. -/
theorem leftoverPayloadIsIgnored : Obligations.LeftoverPayloadIsIgnored := by
  unfold Obligations.LeftoverPayloadIsIgnored
  refine ⟨fun payload => ⟨rfl, rfl, rfl⟩, fun o payload extra i noText h => ?_⟩
  rw [ArgParser.new_append]
  exact Op.decodeArgs_extend noText h extra

end Sys2Proof
end

section
/-! Known opcodes and their categories (30_encoding.md R59 to R61, R72). -/

namespace Sys2Proof

theorem Op.mem_all (o : Op) : o ∈ Op.all := by cases o <;> decide

theorem concreteKnown_code (o : Op) : concreteKnown o.code = true := by
  rw [concreteKnown, Op.ofCode_code]
  rfl

theorem concreteKnown_iff {op : U16} : concreteKnown op = true ↔ ∃ o : Op, o.code = op := by
  refine ⟨fun h => ?_, fun ⟨o, ho⟩ => ho ▸ concreteKnown_code o⟩
  obtain ⟨o, ho⟩ := Option.isSome_iff_exists.1 h
  exact ⟨o, Op.ofCode_some ho⟩

/-- A statement about the row of an opcode is one about a row with that opcode. -/
theorem Op.exists_ofCode_iff {op : U16} {P : Op → Prop} :
    (∃ o, Op.ofCode op = some o ∧ P o) ↔ ∃ o, o.code = op ∧ P o :=
  ⟨fun ⟨o, ho, hP⟩ => ⟨o, Op.ofCode_some ho, hP⟩, fun ⟨o, ho, hP⟩ => ⟨o, ho ▸ Op.ofCode_code o, hP⟩⟩

end Sys2Proof

namespace Sys2Proof.Machine

theorem knownOpcode_code (c : Cfg) (o : Op) : knownOpcode c o.code = true := by
  simp [knownOpcode, concreteKnown_code]

theorem knownOpcode_of_empty {c : Cfg} (huart : c.uartCmds = Config.emptyTable)
    (hi2c : c.i2cCmds = Config.emptyTable) (op : U16) : knownOpcode c op = concreteKnown op := by
  simp [knownOpcode, huart, hi2c, tableDefines, Config.emptyTable]

/-- The high bytes of the UART and I2C namespaces are those of no row. -/
theorem highByte_code_notin (o : Op) : highByte o.code ∉ ([0x10, 0x3B, 0xEF] : List Byte) := by
  cases o <;> decide

/-- Settles O9: with empty tables the known opcodes are those of the rows, whose high bytes are listed. -/
theorem knownOpcodes : Obligations.KnownOpcodes := by
  unfold Obligations.KnownOpcodes
  refine ⟨rfl, by decide, knownOpcode_code, fun c op huart hi2c => ?_⟩
  rw [knownOpcode_of_empty huart hi2c]
  refine ⟨by simp [concreteKnown_iff, Op.mem_all], fun foreign => ?_⟩
  rw [← Bool.not_eq_true, concreteKnown_iff]
  rintro ⟨o, rfl⟩
  exact highByte_code_notin o foreign

/-! ## Categories -/

/-- The category of a row is a request category exactly for a request, and names its interface (R61). -/
theorem category_code (c : Cfg) (o : Op) :
    ∃ k, category c o.code = some k ∧
      (k = .requestGeneric ↔ o.requestSet = some .generic) ∧
      ∀ i, k = .requestPerInterface i ↔ o.requestSet = some (.interface i) := by
  cases o <;> exact ⟨_, rfl, by simp [Op.requestSet], by simp [Op.requestSet]⟩

theorem category_code_requestGeneric (c : Cfg) (o : Op) :
    category c o.code = some .requestGeneric ↔ o.requestSet = some .generic := by
  obtain ⟨k, hk, generic, -⟩ := category_code c o
  rw [hk, Option.some_inj, generic]

theorem category_code_requestPerInterface (c : Cfg) (o : Op) (i : Itf) :
    category c o.code = some (.requestPerInterface i) ↔ o.requestSet = some (.interface i) := by
  obtain ⟨k, hk, -, perInterface⟩ := category_code c o
  rw [hk, Option.some_inj, perInterface]

theorem category_of_highByte_tag {c : Cfg} {op : U16} {i : Itf}
    (h : highByte op = Config.defaultTag i) : category c op = some (.requestPerInterface i) := by
  cases i <;> simp [category, h, Config.defaultTag]

theorem category_of_highByte_ef {c : Cfg} {op : U16} (h : highByte op = 0xEF) :
    category c op = some (.responsePerInterface .uart) := by
  simp [category, h]

theorem category_of_i2cResponseBlock {c : Cfg} {op : U16} (gap : gapByte (highByte op) = true)
    (block : i2cResponseBlock c = some (highByte op)) :
    category c op = some (.responsePerInterface .i2c) := by
  simp only [gapByte, decide_eq_true_eq] at gap
  unfold category
  split
  pick_goal 11
  · exact if_pos block
  all_goals omega

/-! ## Legal command tables -/

section
variable {p : CfgParams} {t : CmdTable} {req : Byte} {resp : Byte → Bool}

theorem cfgLegal_uartCmds (h : cfgLegal p = true) :
    tableLegal 0x10 (fun b => b == 0xEF) p.uartCmds = true := by
  simp only [cfgLegal, Bool.and_eq_true] at h
  obtain ⟨⟨⟨-, uart⟩, -⟩, -⟩ := h
  exact uart

theorem cfgLegal_i2cCmds (h : cfgLegal p = true) :
    tableLegal 0x3B gapByte p.i2cCmds = true ∧ i2cBlockLegal p.i2cCmds = true := by
  simp only [cfgLegal, Bool.and_eq_true] at h
  obtain ⟨⟨-, i2c⟩, block⟩ := h
  exact ⟨i2c, block⟩

theorem highByte_of_mem_requests (h : tableLegal req resp t = true) {e : RequestEntry}
    (he : e ∈ t.requests) : highByte e.opcode = req := by
  simp only [tableLegal, Bool.and_eq_true, List.all_eq_true, beq_iff_eq] at h
  obtain ⟨⟨⟨requests, -⟩, -⟩, -⟩ := h
  obtain ⟨⟨inNamespace, -⟩, -⟩ := requests e he
  exact inNamespace

theorem highByte_of_mem_responses (h : tableLegal req resp t = true) {r : ResponseEntry}
    (hr : r ∈ t.responses) : resp (highByte r.opcode) = true := by
  simp only [tableLegal, Bool.and_eq_true, List.all_eq_true] at h
  obtain ⟨⟨⟨-, responses⟩, -⟩, -⟩ := h
  obtain ⟨inNamespace, -⟩ := responses r hr
  exact inNamespace

end

/-- All responses of a legal I2C table lie in the block of its first one (R60). -/
theorem i2cResponseBlock_of_mem {c : Cfg} (h : i2cBlockLegal c.i2cCmds = true) {r : ResponseEntry}
    (hr : r ∈ c.i2cCmds.responses) : i2cResponseBlock c = some (highByte r.opcode) := by
  unfold i2cBlockLegal at h
  unfold i2cResponseBlock
  cases hl : c.i2cCmds.responses with
  | nil => simp [hl] at hr
  | cons first rest =>
    simp only [hl, List.all_eq_true, beq_iff_eq] at h hr
    simp [h r hr]

section
variable {c : Cfg}

/-- An entry of a request table lies in the request namespace of its interface (R12, R60). -/
theorem category_of_request (legal : cfgLegal c.toCfgParams = true) {i : Itf} {e : RequestEntry}
    (he : e ∈ (cmdTable c i).requests) :
    category c e.opcode = some (.requestPerInterface i) := by
  refine category_of_highByte_tag ?_
  cases i with
  | gpio | pwm => cases he
  | uart => exact highByte_of_mem_requests (cfgLegal_uartCmds legal) he
  | i2c =>
    obtain ⟨table, -⟩ := cfgLegal_i2cCmds legal
    exact highByte_of_mem_requests table he

/-- An entry of a response table is a response of its interface (R12, R60). -/
theorem category_of_response (legal : cfgLegal c.toCfgParams = true) {i : Itf} {r : ResponseEntry}
    (hr : r ∈ (cmdTable c i).responses) :
    category c r.opcode = some (.responsePerInterface i) := by
  cases i with
  | gpio | pwm => cases hr
  | uart =>
    have tag := highByte_of_mem_responses (cfgLegal_uartCmds legal) hr
    exact category_of_highByte_ef (beq_iff_eq.1 tag)
  | i2c =>
    obtain ⟨table, block⟩ := cfgLegal_i2cCmds legal
    exact category_of_i2cResponseBlock (highByte_of_mem_responses table hr)
      (i2cResponseBlock_of_mem block hr)

/-- Where a known opcode comes from: a row, or a request or response of a command table (R59). -/
theorem knownOpcode_cases {op : U16} (h : knownOpcode c op = true) :
    (∃ o : Op, o.code = op) ∨ (∃ i, ∃ e ∈ (cmdTable c i).requests, e.opcode = op) ∨
      ∃ i, ∃ r ∈ (cmdTable c i).responses, r.opcode = op := by
  simp only [knownOpcode, tableDefines, Bool.or_eq_true, concreteKnown_iff, List.any_eq_true,
    beq_iff_eq] at h
  obtain (row | request | response) | request | response := h
  · exact .inl row
  · exact .inr (.inl ⟨.uart, request⟩)
  · exact .inr (.inr ⟨.uart, response⟩)
  · exact .inr (.inl ⟨.i2c, request⟩)
  · exact .inr (.inr ⟨.i2c, response⟩)

end

section
variable {c : Cfg} {op : U16} (legal : cfgLegal c.toCfgParams = true)
  (known : knownOpcode c op = true)
include legal known

theorem category_isSome_of_known : (category c op).isSome = true := by
  obtain ⟨o, rfl⟩ | ⟨j, e, he, rfl⟩ | ⟨j, r, hr, rfl⟩ := knownOpcode_cases known
  · obtain ⟨k, hk, -⟩ := category_code c o
    rw [hk]
    rfl
  · rw [category_of_request legal he]
    rfl
  · rw [category_of_response legal hr]
    rfl

theorem category_eq_requestGeneric_iff :
    (∃ o : Op, o.code = op ∧ o.requestSet = some .generic) ↔
      category c op = some .requestGeneric := by
  refine ⟨fun ⟨o, ho, generic⟩ => ho ▸ (category_code_requestGeneric c o).2 generic, fun h => ?_⟩
  obtain ⟨o, rfl⟩ | ⟨j, e, he, rfl⟩ | ⟨j, r, hr, rfl⟩ := knownOpcode_cases known
  · exact ⟨o, rfl, (category_code_requestGeneric c o).1 h⟩
  · simp [category_of_request legal he] at h
  · simp [category_of_response legal hr] at h

theorem category_eq_requestPerInterface_iff (i : Itf) :
    ((∃ o : Op, o.code = op ∧ o.requestSet = some (.interface i)) ∨
        ∃ e ∈ (cmdTable c i).requests, e.opcode = op) ↔
      category c op = some (.requestPerInterface i) := by
  constructor
  · rintro (⟨o, rfl, hset⟩ | ⟨e, he, rfl⟩)
    · exact (category_code_requestPerInterface c o i).2 hset
    · exact category_of_request legal he
  · intro h
    obtain ⟨o, rfl⟩ | ⟨j, e, he, rfl⟩ | ⟨j, r, hr, rfl⟩ := knownOpcode_cases known
    · exact .inl ⟨o, rfl, (category_code_requestPerInterface c o i).1 h⟩
    · obtain rfl : j = i := by simpa [category_of_request legal he] using h
      exact .inr ⟨e, he, rfl⟩
    · simp [category_of_response legal hr] at h

end

/-- Settles O10: a known opcode is a row or an entry of a command table, and each of these has its
category. -/
theorem everyKnownOpcodeHasCategory : Obligations.EveryKnownOpcodeHasCategory := by
  unfold Obligations.EveryKnownOpcodeHasCategory
  intro c op legal known
  simp only [Op.exists_ofCode_iff]
  exact ⟨category_isSome_of_known legal known, category_eq_requestGeneric_iff legal known,
    category_eq_requestPerInterface_iff legal known⟩

end Sys2Proof.Machine
end

section
/-! Messages that are no request, and requests of another interface (30_encoding.md R73;
60_exceptions.md R177). -/

namespace Sys2Proof

theorem decodeU8_some {mk : Byte → Instr} {p : ArgParser} {i : Instr} (h : decodeU8 mk p = some i) :
    ∃ a, mk a = i := by
  unfold decodeU8 at h
  split at h
  next => cases h
  next => exact ⟨_, Option.some.inj h⟩

theorem decodeU8U8_some {mk : Byte → Byte → Instr} {p : ArgParser} {i : Instr}
    (h : decodeU8U8 mk p = some i) : ∃ a b, mk a b = i := by
  unfold decodeU8U8 at h
  split at h
  next => cases h
  next =>
    split at h
    next => cases h
    next => exact ⟨_, _, Option.some.inj h⟩

theorem decodeU8F32_some {mk : Byte → F32 → Instr} {p : ArgParser} {i : Instr}
    (h : decodeU8F32 mk p = some i) : ∃ a v, mk a v = i := by
  unfold decodeU8F32 at h
  split at h
  next => cases h
  next =>
    split at h
    next => cases h
    next => exact ⟨_, _, Option.some.inj h⟩

/-- Reading the fields of a row gives a message of that row. -/
theorem Op.op_of_decodeArgs {o : Op} {p : ArgParser} {i : Instr} (h : o.decodeArgs p = some i) :
    i.op = o := by
  cases o with
  | gpioDirGet | gpioRead | pwmGetDutyCycle | pwmGetFrequency | respItfType =>
    obtain ⟨a, rfl⟩ := decodeU8_some h
    rfl
  | gpioDirSet | gpioWrite | respGpioDir | respGpioValue =>
    obtain ⟨a, b, rfl⟩ := decodeU8U8_some h
    rfl
  | pwmSetDutyCycle | pwmSetFrequency | respPwmDuty | respPwmFreq =>
    obtain ⟨a, v, rfl⟩ := decodeU8F32_some h
    rfl
  | respId =>
    obtain ⟨r, -, rfl⟩ := Option.map_eq_some_iff.1 h
    rfl
  | ping | itfType | version | idGet | good | errGeneric | errCRC | errUnknownCode | errInvalidArgs
  | errBusy | respVersion =>
    obtain rfl := Option.some.inj h
    rfl

/-- A message read from a frame is of the row with the frame's opcode. -/
theorem Frame.opcode_of_message {f : Frame} {i : Instr} (h : f.message = .ok i) :
    i.op.code = f.opcode := by
  obtain ⟨o, ho, read⟩ := Frame.message_ok h
  rw [Op.op_of_decodeArgs read, Op.ofCode_some ho]

end Sys2Proof

namespace Sys2Proof.Machine

theorem State.fail_notARequest (s : State) : s.fail .notARequest = s.answered .errUnknownCode := by
  have silent : s.emit (Failure.notARequest.events.map .diag) = s := by
    simp [Failure.events, State.emit]
  rw [State.fail, silent]
  exact s.send_fits .errUnknownCode (Nat.zero_le _)

/-- A request of another interface fails as a message that is no request does: no event, ErrUnknownCode
(R174). -/
theorem State.fail_notThisInterface (s : State) :
    s.fail .notThisInterface = s.answered .errUnknownCode := s.fail_notARequest

theorem exec_of_not_request {i : Instr} (s : State) (h : i.op.requestSet = none) :
    exec i s = .next (s.answered .errUnknownCode) := by
  rw [← State.fail_notARequest]
  cases i with
  | ping | itfType | version | idGet | gpioDirSet | gpioDirGet | gpioWrite | gpioRead
  | pwmSetDutyCycle | pwmGetDutyCycle | pwmSetFrequency | pwmGetFrequency => cases h
  | _ => rfl

/-- A request of an interface runs behind the check that the interface is installed (R136). -/
theorem exec_eq_whenInstalled {i : Instr} {j : Itf} (s : State)
    (h : i.op.requestSet = some (.interface j)) :
    ∃ handler, exec i s = .next (s.whenInstalled j handler) := by
  cases i with
  | gpioDirSet | gpioDirGet | gpioWrite | gpioRead | pwmSetDutyCycle | pwmGetDutyCycle
  | pwmSetFrequency | pwmGetFrequency =>
    cases h
    exact ⟨_, rfl⟩
  | _ => cases h

theorem exec_of_other_interface {i : Instr} {j : Itf} (s : State)
    (h : i.op.requestSet = some (.interface j)) (other : j ≠ s.cfg.itf) :
    exec i s = .next (s.answered .errUnknownCode) := by
  obtain ⟨handler, runs⟩ := exec_eq_whenInstalled s h
  rw [runs, s.whenInstalled_other j handler other.symm, s.fail_notThisInterface]

/-- A message that is a request neither generic nor of the installed interface (R136, R177). -/
theorem exec_of_unserved {i : Instr} (s : State) (generic : i.op.requestSet ≠ some .generic)
    (installed : i.op.requestSet ≠ some (.interface s.cfg.itf)) :
    exec i s = .next (s.answered .errUnknownCode) := by
  rcases hset : i.op.requestSet with _ | _ | j
  · exact exec_of_not_request s hset
  · exact absurd hset generic
  · exact exec_of_other_interface s hset fun same => installed (same ▸ hset)

/-! ## Frames of an unserved category -/

section
variable {s : State} {k : Category} (generic : k ≠ .requestGeneric)
  (installed : k ≠ .requestPerInterface s.cfg.itf)
include generic installed

theorem State.refuseArguments_of_unserved {op : U16} (hk : category s.cfg op = some k) :
    s.refuseArguments op = s.answered .errUnknownCode := by
  cases k with
  | requestGeneric => exact absurd rfl generic
  | requestPerInterface j =>
    have other : j ≠ s.cfg.itf := fun same => installed (same ▸ rfl)
    simp only [State.refuseArguments, hk, if_pos other, s.fail_notThisInterface]
  | statusGeneric | responseGeneric | responsePerInterface =>
    simp only [State.refuseArguments, hk, s.fail_notARequest]

theorem State.runTable_of_unserved {f : Frame} (hk : category s.cfg f.opcode = some k) :
    s.runTable f = s.answered .errUnknownCode := by
  cases k with
  | requestGeneric => exact absurd rfl generic
  | requestPerInterface j =>
    have other : j ≠ s.cfg.itf := fun same => installed (same ▸ rfl)
    simp only [State.runTable, hk, if_pos other, s.fail_notThisInterface]
  | statusGeneric | responseGeneric | responsePerInterface =>
    simp only [State.runTable, hk, s.fail_notARequest]

/-- A frame of a category that is not served is answered ErrUnknownCode, whether it carries a message,
a row's opcode with unreadable fields, or an opcode of a command table (R136, R177). -/
theorem processFrame_of_unserved {f : Frame} (hk : category s.cfg f.opcode = some k) :
    processFrame f s = .next (s.answered .errUnknownCode) := by
  rcases hm : f.message with (op | o) | i <;> simp only [processFrame, hm]
  case error.noRow => rw [State.runTable_of_unserved generic installed hk]
  case error.invalidArgument => rw [State.refuseArguments_of_unserved generic installed hk]
  case ok =>
    rw [← Frame.opcode_of_message hm] at hk
    refine exec_of_unserved s (fun hset => generic ?_) fun hset => installed ?_
    · rw [(category_code_requestGeneric s.cfg i.op).2 hset] at hk
      exact (Option.some.inj hk).symm
    · rw [(category_code_requestPerInterface s.cfg i.op _).2 hset] at hk
      exact (Option.some.inj hk).symm

end

/-- Settles O29: a message is refused by the request set of its row, a frame by the category of its
opcode. -/
theorem unservedMessagesAreUnknown : Obligations.UnservedMessagesAreUnknown := by
  unfold Obligations.UnservedMessagesAreUnknown
  constructor
  · rintro s i (notRequest | ⟨j, hset, other⟩)
    · exact exec_of_not_request s notRequest
    · exact exec_of_other_interface s hset other
  · rintro s f (hk | hk | ⟨j, hk⟩ | ⟨j, hk, other⟩)
    · exact processFrame_of_unserved (by simp) (by simp) hk
    · exact processFrame_of_unserved (by simp) (by simp) hk
    · exact processFrame_of_unserved (by simp) (by simp) hk
    · exact processFrame_of_unserved (by simp) (by simpa using other) hk

end Sys2Proof.Machine
end
section
/-! A message on the wire runs its meaning (30_encoding.md R69; 43_dispatcher.md R152, R154). -/

namespace Sys2Proof

/-- The frame of a message carries that message (42_command_model.md R133). -/
theorem Instr.message_toFrame (i : Instr) : i.toFrame.message = .ok i := by
  cases i with
  | pwmSetDutyCycle channel value => exact Laws.DecodesBack.pwmSetDutyCycle channel value
  | pwmSetFrequency channel value => exact Laws.DecodesBack.pwmSetFrequency channel value
  | respPwmDuty channel value => exact Laws.DecodesBack.respPwmDuty channel value
  | respPwmFreq channel value => exact Laws.DecodesBack.respPwmFreq channel value
  | _ => rfl

theorem textOk_length {text : Bytes} (h : textOk text = true) :
    text.length ≤ Config.maxWirePayload := by
  rw [textOk, Bool.and_eq_true, decide_eq_true_eq] at h
  obtain ⟨short, -⟩ := h
  exact short

/-- The payload of a message that may be encoded leaves room for opcode and checksum in the decoder
(00_scope.md R8). -/
theorem Instr.payload_length_of_wellFormed {i : Instr} (h : i.wellFormed = true) :
    i.payload.length ≤ Config.maxWirePayload := by
  cases i with
  | errGeneric text | errInvalidArgs text | respVersion text => exact textOk_length h
  | _ => simp [Instr.payload, Id8.toBytes, Config.maxWirePayload, Config.decCap]

theorem encode_length_of_wellFormed {i : Instr} (h : i.wellFormed = true) :
    (encode i).length ≤ Config.decCap := by
  have payload := Instr.payload_length_of_wellFormed h
  have length : (encode i).length = i.payload.length + 4 := i.toFrame.toBytes_length
  simp only [Config.maxWirePayload, Config.decCap] at payload ⊢
  omega

/-- What `decode` reads: the raw bytes of a frame of a row, which carries the message. -/
theorem decode_eq_ok_iff {raw : Bytes} {i : Instr} :
    decode raw = .ok i ↔ ∃ f, Frame.fromBytes concreteKnown raw = .ok f ∧ f.message = .ok i := by
  unfold decode
  rcases Frame.fromBytes concreteKnown raw with e | f
  · simp
  · rcases hm : f.message with e | j <;> simp [hm]

theorem decode_encode {i : Instr} (h : i.wellFormed = true) : decode (encode i) = .ok i := by
  have payload := Instr.payload_length_of_wellFormed h
  refine decode_eq_ok_iff.2 ⟨i.toFrame, ?_, i.message_toFrame⟩
  rw [encode, Frame.fromBytes_toBytes, if_neg, if_neg]
  · exact Nat.not_lt.2 (payload.trans (by decide))
  · simp [Instr.toFrame, concreteKnown_code]

end Sys2Proof

namespace Sys2Proof.Machine

/-! ## From the raw frame to the meaning -/

/-- A raw frame that decodes without command tables is handled as its message under every
configuration (R72, R152). -/
theorem handleFrame_of_decode {raw : Bytes} {i : Instr} (h : decode raw = .ok i) (s : State) :
    handleFrame raw s = exec i s := by
  obtain ⟨f, parsed, carries⟩ := decode_eq_ok_iff.1 h
  obtain ⟨rfl, known, fits, -⟩ := Frame.fromBytes_ok parsed
  have parses : Frame.fromBytes (knownOpcode s.cfg) f.toBytes = .ok f := by
    rw [Frame.fromBytes_toBytes, if_neg (by simp [knownOpcode, known]), if_neg (Nat.not_lt.2 fits)]
  simp only [handleFrame, parses, processFrame, carries]

theorem exec_keeps_chunk {i : Instr} {s t : State} (h : exec i s = .next t) : t.chunk = s.chunk := by
  obtain ⟨-, -, -, -, chunk, -⟩ := messagesWriteNoBlockState i s t h
  exact chunk

/-! ## Steps -/

/-- A step that completes a frame handles it, resets the decoder and goes on behind it (R154). -/
theorem step_of_frameComplete {s t : State} {n : Nat} {d : Dec} (noReset : s.resetReq = .none)
    (pending : s.pending ≠ [])
    (fed : decFeed Config.decCap s.dec s.pending = (.ok n true, d))
    (handled : handleFrame d.acc (s.setDec d) = .next t) :
    step s = .next (t.decReset.advance n) := by
  rw [step_of_noReset s noReset, loopStep_of_pending pending]
  simp only [feedRound, fed, handled, mapNext]

/-- An idle block takes a chunk that is delivered to it. -/
theorem State.Idle.step_deliver {s : State} (idle : s.Idle) (c : Bytes) :
    step (s.deliver c) = .next { s with chunk := c } := by
  obtain ⟨chunk, off, rx, noReset⟩ := idle
  have taken : (s.deliver c).takeChunk c [] = { s with chunk := c } := by
    simp [State.takeChunk, State.deliver, off, rx]
  have nothingPending : (s.deliver c).pending = [] := by simp [State.pending, chunk]
  have delivered : (s.deliver c).rx = [c] := by simp [rx]
  rw [step_of_noReset (s.deliver c) noReset, loopStep]
  simp only [nothingPending, delivered, taken]

theorem State.advance_to_end {s : State} {n : Nat} (h : s.chunk.length ≤ s.off + n) :
    s.advance n = { s with chunk := [], off := 0 } := by
  obtain ⟨inside, -⟩ | ⟨-, atEnd⟩ := s.advance_cases n
  · omega
  · exact atEnd

/-- A step on a chunk that holds the wire message of one raw frame runs the message the frame decodes to,
and uses the chunk up. -/
theorem step_of_wire_chunk {s t : State} {raw : Bytes} {i : Instr} (noReset : s.resetReq = .none)
    (off : s.off = 0) (chunk : s.chunk = wire raw) (emptyDec : s.dec = Dec.empty)
    (room : raw.length ≤ Config.decCap) (decodes : decode raw = .ok i)
    (ran : exec i (s.setDec ⟨raw, false⟩) = .next t) :
    step s = .next { t with chunk := [], off := 0, dec := Dec.empty } := by
  have pending : s.pending = wire raw := by rw [State.pending, off, chunk, List.drop_zero]
  have fed : decFeed Config.decCap s.dec s.pending = (.ok (wire raw).length true, ⟨raw, false⟩) := by
    rw [emptyDec, pending, decFeed_wire room]
  have handled : handleFrame raw (s.setDec ⟨raw, false⟩) = .next t := by
    rw [handleFrame_of_decode decodes, ran]
  have usedUp : t.decReset.chunk.length ≤ t.decReset.off + (wire raw).length := by
    have kept : t.chunk = wire raw := (exec_keeps_chunk ran).trans chunk
    simp [State.decReset, kept]
  rw [step_of_frameComplete noReset (by simp [pending, wire]) fed handled,
    State.advance_to_end usedUp]
  rfl

theorem run_two {s t u : State} (first : step s = .next t) (second : step t = .next u) :
    Host.Core.run core 2 s = .next u := by
  have first' : core.step s = .next t := first
  have second' : core.step t = .next u := second
  simp only [Host.Core.run, first', second']

/-- Settles O41: the first step takes the chunk, the second runs the message its frame decodes to. -/
theorem wireMessageRunsItsMeaning : Obligations.WireMessageRunsItsMeaning := by
  unfold Obligations.WireMessageRunsItsMeaning
  intro i s wellFormed idle emptyDec
  obtain ⟨t, ran⟩ := exec_next i { s with chunk := wire (encode i), dec := ⟨encode i, false⟩ }
  have first := idle.step_deliver (wire (encode i))
  obtain ⟨-, off, -, noReset⟩ := idle
  have second := step_of_wire_chunk (s := { s with chunk := wire (encode i) }) noReset off rfl emptyDec
    (encode_length_of_wellFormed wellFormed) (decode_encode wellFormed) ran
  exact ⟨t, ran, run_two first second⟩

end Sys2Proof.Machine
end

section
/-! The laws of the codec that the spec infers (40_transport_codec.md R86 to R88): what the encoder
returns, what a decoder gives back, and the bad escape. -/

namespace Sys2Proof

/-! ## Encoding -/

/-- Settles O12: an encoder that does not fail has stuffed its whole input and appended `END`. -/
theorem encoderProducesWireForm : Obligations.EncoderProducesWireForm := by
  unfold Obligations.EncoderProducesWireForm
  intro cap n m raw buf out fed finished
  have stuffed : buf = raw.flatMap stuff := by
    obtain ⟨whole, -⟩ | ⟨j, -, full, -⟩ := encFeedFrom_cases cap 0 [] raw (Nat.zero_le cap)
    · exact congrArg Prod.snd (fed.symm.trans whole)
    · cases (congrArg Prod.fst (fed.symm.trans full) : EncResult.ok n = .bufferFull _)
  have ended : out = buf ++ [bEND] := by
    obtain ⟨-, refused⟩ | ⟨-, appended⟩ := encFinish_cases cap buf
    · cases (congrArg Prod.fst (finished.symm.trans refused) : EncResult.ok m = .bufferFull _)
    · exact congrArg Prod.snd (finished.symm.trans appended)
  rw [ended, stuffed]
  exact ⟨rfl, rfl⟩

/-! ## Decoding past the capacity -/

/-- A full decoder takes no byte more: it fails at the last byte of the stuffed form (R78). -/
theorem decFeedFrom_stuff_of_full (k : Nat) (acc rest : Bytes) (b : Byte) :
    (decFeedFrom acc.length k ⟨acc, false⟩ (stuff b ++ rest)).1 =
      .err .bufferFull (k + (stuff b).length - 1) := by
  rcases stuff_cases b with ⟨rfl, h⟩ | ⟨rfl, h⟩ | ⟨notEnd, notEsc, h⟩ <;> rw [h]
  · simp [decFeedFrom, byteClass, bEND, bESC, bESC_END]
  · simp [decFeedFrom, byteClass, bEND, bESC, bESC_END, bESC_ESC]
  · simp [decFeedFrom, byteClass, notEnd, notEsc]

/-- The decoder refuses the byte that follows `acc.length` decoded ones, whatever comes behind it. -/
theorem decFeed_flatMap_stuff_of_full (acc rest : Bytes) (b : Byte) :
    (decFeed acc.length Dec.empty ((acc ++ [b]).flatMap stuff ++ rest)).1 =
      .err .bufferFull (((acc ++ [b]).flatMap stuff).length - 1) := by
  have filled := decFeedFrom_flatMap_stuff acc.length 0 [] acc (stuff b ++ rest) (by simp)
  rw [List.nil_append, Nat.zero_add] at filled
  rw [List.flatMap_append, List.flatMap_singleton, List.append_assoc, decFeed, Dec.empty, filled,
    decFeedFrom_stuff_of_full, List.length_append]

/-- Settles O14: the stuffed form of the first 64 bytes fills the accumulator, and the next byte is
refused where its stuffed form ends. -/
theorem slipRoundTrip : Obligations.SlipRoundTrip := by
  unfold Obligations.SlipRoundTrip
  refine fun raw => ⟨decFeed_wire, fun long => ?_⟩
  have full : (raw.take Config.decCap).length = Config.decCap := List.length_take_of_le long.le
  have cut : raw.take (Config.decCap + 1) = raw.take Config.decCap ++ [raw[Config.decCap]] :=
    (List.take_append_getElem long).symm
  have split : wire raw =
      (raw.take (Config.decCap + 1)).flatMap stuff ++ wire (raw.drop (Config.decCap + 1)) := by
    rw [wire, wire, ← List.append_assoc, ← List.flatMap_append, List.take_append_drop]
  have refused := decFeed_flatMap_stuff_of_full (raw.take Config.decCap)
    (wire (raw.drop (Config.decCap + 1))) raw[Config.decCap]
  rwa [full, ← cut, ← split] at refused

/-! ## Bad escapes -/

theorem byteClass_badEscape {b : Byte} (notEnd : b ≠ bESC_END) (notEsc : b ≠ bESC_ESC) :
    byteClass true b = .badEscape := by
  simp [byteClass, notEnd, notEsc]

/-- Settles O15: what was taken whole leaves the decoder where the escape byte finds it, and the byte
behind that completes no escape. -/
theorem badEscapeIsRejected : Obligations.BadEscapeIsRejected := by
  unfold Obligations.BadEscapeIsRejected
  intro cap d d' before rest x taken noEscape notEnd notEsc
  have enters : byteClass d'.esc 0xDB = .enterEscape := by rw [noEscape]; rfl
  rw [decFeed] at taken ⊢
  rw [decFeedFrom_append, taken]
  simp only [decFeedFrom, enters, byteClass_badEscape notEnd notEsc]

end Sys2Proof
end

section
/-! One round of the control loop without its cursor (43_dispatcher.md R152, R154, R155): what a feed's
answer does to the block. -/

namespace Sys2Proof

/-- How many bytes a round uses up; a transport error goes on behind the offending byte (R154, R155). -/
def FeedResult.used : FeedResult → Nat
  | .ok n _ => n
  | .err _ k => k + 1

theorem FeedResult.used_shift (k : Nat) (r : FeedResult) : (r.shift k).used = k + r.used := by
  cases r <;> rfl

theorem decFeed_used_pos (cap : Nat) (d : Dec) {input : Bytes} (h : input ≠ []) :
    0 < (decFeed cap d input).1.used := by
  unfold decFeed
  obtain ⟨d', fed⟩ | ⟨n, d', -, -, -, fed⟩ | ⟨n, e, d', -, fed⟩ := decFeedFrom_cases cap 0 d input
  · rw [fed]
    simpa [FeedResult.used] using List.length_pos_iff.2 h
  · rw [fed]
    exact Nat.succ_pos _
  · rw [fed]
    exact Nat.succ_pos _

end Sys2Proof

namespace Sys2Proof.Machine

/-- The state after a raw frame has been handled; `handleFrame_eq` ties it to `handleFrame`. -/
def State.handled (raw : Bytes) (s : State) : State :=
  match handleFrame raw s with
  | .next t => t
  | .fault _ => s
  | .refused _ => s

theorem handleFrame_eq (raw : Bytes) (s : State) : handleFrame raw s = .next (s.handled raw) := by
  obtain ⟨t, handled⟩ := handleFrame_next raw s
  simp only [State.handled, handled]

/-- What a round does besides moving the cursor, once the decoder has answered. -/
def State.afterFeed : FeedResult × Dec → State → State
  | (.ok _ false, d), s => s.setDec d
  | (.ok _ true, d), s => ((s.setDec d).handled d.acc).decReset
  | (.err kind k, d), s => (s.setDec d).transportFail kind k

/-- The state after a round whose feed has answered `r`. -/
def State.afterRound (r : FeedResult × Dec) (s : State) : State := (s.afterFeed r).advance r.1.used

theorem feedRound_eq (s : State) :
    feedRound s = .next (s.afterRound (decFeed Config.decCap s.dec s.pending)) := by
  unfold feedRound
  rcases decFeed Config.decCap s.dec s.pending with ⟨⟨n, _ | _⟩ | ⟨kind, k⟩, d⟩
  case ok.true =>
    simp only [handleFrame_eq, mapNext]
    rfl
  all_goals rfl

theorem step_of_pending {s : State} (noReset : s.resetReq = .none) (h : s.pending ≠ []) :
    step s = .next (s.afterRound (decFeed Config.decCap s.dec s.pending)) := by
  rw [step_of_noReset s noReset, loopStep_of_pending h, feedRound_eq]

/-- On every state that agrees with `s`, a feed's answer puts out the same events, sets the same decoder,
and changes nothing else but the encoder. -/
theorem State.afterFeed_answers (r : FeedResult × Dec) (s : State) :
    ∃ (es : List OutEvent) (d : Dec) (enc : Bytes → Bytes), ∀ s', s.Agrees s' →
      s'.afterFeed r = ((s'.record es).setDec d).setEnc (enc s'.enc) := by
  rcases r with ⟨⟨n, _ | _⟩ | ⟨kind, k⟩, d⟩
  case ok.false =>
    exact ⟨[], d, id, fun s' _ => by rw [State.record_nil]; rfl⟩
  case ok.true =>
    obtain ⟨es, handled⟩ := handleFrame_answers d.acc (s.setDec d)
    refine ⟨es, Dec.empty, fun _ => [], fun s' a => ?_⟩
    have agrees : (s.setDec d).Agrees (s'.setDec d) := ⟨a.cfg, a.portTape, a.draws⟩
    have result := Host.Outcome.next.inj ((handleFrame_eq _ _).symm.trans (handled _ agrees))
    simp only [State.afterFeed, result]
    rfl
  case err =>
    exact ⟨[.diag (.transportError kind k)], Dec.empty, id, fun _ _ => rfl⟩

theorem State.afterFeed_keeps (r : FeedResult × Dec) (s : State) :
    (s.afterFeed r).chunk = s.chunk ∧ (s.afterFeed r).off = s.off ∧ (s.afterFeed r).rx = s.rx ∧
      (s.afterFeed r).resetReq = s.resetReq := by
  obtain ⟨es, d, enc, answers⟩ := s.afterFeed_answers r
  rw [answers s (.refl s)]
  exact ⟨rfl, rfl, rfl, rfl⟩

end Sys2Proof.Machine
end

section
/-! How the host cuts its stream into chunks (10_state.md R30; 43_dispatcher.md R154, R155). Every way of
cutting it leads, but for the offsets of transport errors, to where delivering each byte as a chunk of
its own leads. -/

namespace Sys2Proof

/-- A feed's first byte: taken, and the rest is fed from the decoder it leaves, or the last byte used. -/
theorem decFeed_cons_cases (cap : Nat) (d : Dec) (b : Byte) (rest : Bytes) :
    (∃ d', decFeed cap d [b] = (.ok 1 false, d') ∧
      decFeed cap d (b :: rest) =
        ((decFeed cap d' rest).1.shift 1, (decFeed cap d' rest).2)) ∨
    ((decFeed cap d [b]).1.used = 1 ∧ decFeed cap d (b :: rest) = decFeed cap d [b]) := by
  have whole : decFeed cap d (b :: rest) = _ := decFeedFrom_append cap 0 d [b] rest
  obtain ⟨d', first⟩ | ⟨n, d', inside, -, -, first⟩ | ⟨n, e, d', inside, first⟩ :=
    decFeedFrom_cases cap 0 d [b]
  · rw [first] at whole
    exact .inl ⟨d', first, whole.trans (decFeedFrom_shift cap 1 0 d' rest)⟩
  all_goals
    obtain rfl : n = 0 := Nat.lt_one_iff.1 inside
    rw [first] at whole
    rw [whole, decFeed, first]
    exact .inr ⟨rfl, rfl⟩

end Sys2Proof

namespace Sys2Proof.Machine

/-! ## Outputs without offsets -/

theorem OutEvent.forgetOffset_idem (e : OutEvent) : e.forgetOffset.forgetOffset = e.forgetOffset := by
  rcases e with _ | _ | (_ | _ | _ | _) <;> rfl

/-- `s` with the offsets of transport errors taken out of its outputs. -/
def State.forgetOffsets (s : State) : State := { s with out := s.out.map OutEvent.forgetOffset }

theorem State.afterFeed_forgetOffsets (r : FeedResult × Dec) (s : State) :
    (s.forgetOffsets.afterFeed r).forgetOffsets = (s.afterFeed r).forgetOffsets := by
  obtain ⟨es, d, enc, answers⟩ := s.afterFeed_answers r
  rw [answers s (.refl s), answers s.forgetOffsets ⟨rfl, rfl, rfl⟩]
  simp [State.forgetOffsets, State.record, State.setDec, State.setEnc,
    OutEvent.forgetOffset_idem, Function.comp_def]

/-- Where in its chunk a feed ends, and what the decoder was before, is seen in the offset only. -/
theorem State.afterFeed_shift (k : Nat) (r : FeedResult × Dec) (d : Dec) (s : State) :
    (s.afterFeed (r.1.shift k, r.2)).forgetOffsets = ((s.setDec d).afterFeed r).forgetOffsets := by
  rcases r with ⟨⟨n, _ | _⟩ | ⟨kind, j⟩, d'⟩
  case err =>
    simp [FeedResult.shift, State.afterFeed, State.transportFail, State.forgetOffsets,
      State.emitDiag, State.emit, State.decReset, State.setDec, OutEvent.forgetOffset,
      DiagEvent.forgetOffset]
  all_goals rfl

/-! ## Byte by byte -/

/-- `s` after a round on a chunk of one byte. -/
def State.takeByte (s : State) (b : Byte) : State := s.afterFeed (decFeed Config.decCap s.dec [b])

theorem State.takeByte_congr {s s' : State} (h : s.forgetOffsets = s'.forgetOffsets) (b : Byte) :
    (s.takeByte b).forgetOffsets = (s'.takeByte b).forgetOffsets := by
  have dec : s.dec = s'.dec := (congrArg State.dec h :)
  rw [State.takeByte, State.takeByte, ← State.afterFeed_forgetOffsets, h, dec,
    State.afterFeed_forgetOffsets]

theorem State.takeBytes_congr {s s' : State} (h : s.forgetOffsets = s'.forgetOffsets) (bytes : Bytes) :
    (bytes.foldl State.takeByte s).forgetOffsets = (bytes.foldl State.takeByte s').forgetOffsets := by
  induction bytes generalizing s s' with
  | nil => exact h
  | cons b rest ih => exact ih (State.takeByte_congr h b)

/-- One round does what the bytes it uses up do one by one. -/
theorem State.afterFeed_bytewise (s : State) (input : Bytes) :
    ((input.take (decFeed Config.decCap s.dec input).1.used).foldl State.takeByte s).forgetOffsets =
      (s.afterFeed (decFeed Config.decCap s.dec input)).forgetOffsets := by
  induction input generalizing s with
  | nil => rfl
  | cons b rest ih =>
    obtain ⟨d, first, whole⟩ | ⟨one, whole⟩ := decFeed_cons_cases Config.decCap s.dec b rest
    · have taken : s.takeByte b = s.setDec d := by rw [State.takeByte, first]; rfl
      rw [whole, FeedResult.used_shift, Nat.add_comm, List.take_succ_cons, List.foldl_cons, taken,
        State.afterFeed_shift 1 _ d]
      exact ih (s.setDec d)
    · rw [whole, one]
      rfl

/-! ## The stream -/

/-- The RX bytes not yet fed: the rest of the chunk in progress, then the chunks not yet taken. -/
def State.stream (s : State) : Bytes := s.pending ++ s.rx.flatten

/-- `s` with its stream taken away. -/
def State.cleared (s : State) : State := { s with chunk := [], off := 0, rx := [] }

theorem State.Idle.cleared {s : State} (idle : s.Idle) : s.cleared = s := by
  obtain ⟨chunk, off, rx, -⟩ := idle
  simp [State.cleared, ← chunk, ← off, ← rx]

/-- Where the stream leads when each of its bytes is a chunk of its own, but for offsets. -/
def State.absorbed (s : State) : State := (s.stream.foldl State.takeByte s.cleared).forgetOffsets

/-- What is left to do: bytes to feed and chunks to take. -/
def State.load (s : State) : Nat := s.stream.length + s.rx.length

/-- A chunk that is used up has been dropped (10_state.md R25). -/
def State.ChunkDropped (s : State) : Prop := s.pending = [] → s.chunk = [] ∧ s.off = 0

theorem State.afterFeed_cleared (r : FeedResult × Dec) (s : State) :
    (s.afterFeed r).cleared = s.cleared.afterFeed r := by
  obtain ⟨es, d, enc, answers⟩ := s.afterFeed_answers r
  rw [answers s (.refl s), answers s.cleared ⟨rfl, rfl, rfl⟩]
  rfl

theorem State.advance_keeps (n : Nat) (s : State) :
    (s.advance n).pending = s.pending.drop n ∧ (s.advance n).rx = s.rx ∧
      (s.advance n).resetReq = s.resetReq ∧ (s.advance n).cleared = s.cleared := by
  obtain ⟨-, h⟩ | ⟨past, h⟩ := s.advance_cases n <;> rw [h]
  · exact ⟨by simp [State.pending], rfl, rfl, rfl⟩
  · exact ⟨by simp [State.pending, past], rfl, rfl, rfl⟩

theorem State.chunkDropped_advance (n : Nat) (s : State) : (s.advance n).ChunkDropped := by
  obtain ⟨inside, h⟩ | ⟨-, h⟩ := s.advance_cases n <;> rw [h]
  · intro nothing
    have : s.chunk.length ≤ s.off + n := List.drop_eq_nil_iff.1 nothing
    omega
  · exact fun _ => ⟨rfl, rfl⟩

/-- A round takes what it used up off the chunk; without the stream, it is what the feed's answer does. -/
theorem State.afterRound_keeps (r : FeedResult × Dec) (s : State) :
    (s.afterRound r).pending = s.pending.drop r.1.used ∧ (s.afterRound r).rx = s.rx ∧
      (s.afterRound r).resetReq = s.resetReq ∧ (s.afterRound r).cleared = s.cleared.afterFeed r ∧
      (s.afterRound r).ChunkDropped := by
  obtain ⟨chunk, off, rx, noReset⟩ := s.afterFeed_keeps r
  obtain ⟨pending', rx', noReset', cleared'⟩ := (s.afterFeed r).advance_keeps r.1.used
  have pending : (s.afterFeed r).pending = s.pending := by
    rw [State.pending, chunk, off, State.pending]
  exact ⟨pending'.trans (by rw [pending]), rx'.trans rx, noReset'.trans noReset,
    cleared'.trans (s.afterFeed_cleared r), State.chunkDropped_advance _ _⟩

theorem State.chunkDropped_takeChunk (c : Bytes) (rest : List Bytes) (s : State) :
    (s.takeChunk c rest).ChunkDropped := fun nothing => ⟨nothing, rfl⟩

/-- An idle block on a chunk of one byte takes that byte and is idle again. -/
theorem State.Idle.step_byte {s : State} (idle : s.Idle) (b : Byte) :
    step { s with chunk := [b] } = .next (s.takeByte b) ∧ (s.takeByte b).Idle := by
  have ⟨_, off, rx, noReset⟩ := idle
  have pending : ({ s with chunk := [b] } : State).pending = [b] := by simp [State.pending, off]
  have round := step_of_pending (s := { s with chunk := [b] }) noReset (by simp [pending])
  obtain ⟨pending', rx', noReset', cleared, dropped⟩ :=
    State.afterRound_keeps (decFeed Config.decCap s.dec [b]) { s with chunk := [b] }
  rw [pending] at round pending'
  obtain ⟨chunk', off'⟩ := dropped (pending'.trans (List.drop_eq_nil_of_le
    (decFeed_used_pos Config.decCap s.dec (List.cons_ne_nil b []))))
  have idle' : State.Idle _ := ⟨chunk', off', rx'.trans rx, noReset'.trans noReset⟩
  have taken := idle'.cleared.symm.trans (cleared.trans (congrArg (State.afterFeed _) idle.cleared))
  rw [State.takeByte, ← taken]
  exact ⟨round, idle'⟩

/-- A round on the chunk in progress takes bytes off the stream and absorbs them. -/
theorem State.absorbed_round {s : State} (h : s.pending ≠ []) {r : FeedResult × Dec}
    (fed : decFeed Config.decCap s.dec s.pending = r) :
    (s.afterRound r).load < s.load ∧ (s.afterRound r).absorbed = s.absorbed := by
  obtain ⟨pending, rx, -, cleared, -⟩ := s.afterRound_keeps r
  constructor
  · have used : 0 < r.1.used := fed ▸ decFeed_used_pos Config.decCap s.dec h
    have more : 0 < s.pending.length := List.length_pos_iff.2 h
    simp only [State.load, State.stream, pending, rx, List.length_append, List.length_drop]
    omega
  · have split : s.stream = s.pending.take r.1.used ++ (s.pending.drop r.1.used ++ s.rx.flatten) := by
      rw [← List.append_assoc, List.take_append_drop, State.stream]
    have bytewise := s.cleared.afterFeed_bytewise s.pending
    rw [show s.cleared.dec = s.dec from rfl, fed] at bytewise
    rw [State.absorbed, State.absorbed, split, List.foldl_append, State.stream, pending, rx, cleared]
    exact State.takeBytes_congr bytewise.symm _

theorem State.absorbed_takeChunk {s : State} {c : Bytes} {rest : List Bytes} (nothing : s.pending = [])
    (delivered : s.rx = c :: rest) :
    (s.takeChunk c rest).load < s.load ∧ (s.takeChunk c rest).absorbed = s.absorbed := by
  have pending : (s.takeChunk c rest).pending = c := rfl
  have stream : (s.takeChunk c rest).stream = s.stream := by
    simp [State.stream, nothing, delivered, pending]
  constructor
  · simp [State.load, stream, delivered]
  · rw [State.absorbed, stream]
    rfl

/-- A step with something left to do does some of it, and leads where it led before. -/
theorem step_absorbs {s : State} (noReset : s.resetReq = .none) (busy : s.pending ≠ [] ∨ s.rx ≠ []) :
    ∃ t, step s = .next t ∧ t.resetReq = .none ∧ t.ChunkDropped ∧ t.load < s.load ∧
      t.absorbed = s.absorbed := by
  by_cases nothing : s.pending = []
  · obtain ⟨c, rest, delivered⟩ := List.exists_cons_of_ne_nil (busy.resolve_left (· nothing))
    have taken : step s = .next (s.takeChunk c rest) := by
      rw [step_of_noReset s noReset]
      simp only [loopStep, nothing, delivered]
    exact ⟨_, taken, noReset, s.chunkDropped_takeChunk c rest,
      State.absorbed_takeChunk nothing delivered⟩
  · obtain ⟨-, -, noReset', -, dropped⟩ :=
      s.afterRound_keeps (decFeed Config.decCap s.dec s.pending)
    exact ⟨_, step_of_pending noReset nothing, noReset'.trans noReset, dropped,
      State.absorbed_round nothing rfl⟩

theorem run_succ {s t : State} (first : step s = .next t) (n : Nat) :
    Host.Core.run core (n + 1) s = Host.Core.run core n t := by
  have first' : core.step s = .next t := first
  simp only [Host.Core.run, first']

/-- The block takes in its whole stream, however it is cut, and waits: it is then where the bytes one by
one lead, but for offsets. -/
theorem run_absorbs (s : State) (noReset : s.resetReq = .none) (dropped : s.ChunkDropped) :
    ∃ n t, Host.Core.run core n s = .next t ∧ t.Idle ∧ t.forgetOffsets = s.absorbed := by
  by_cases busy : s.pending ≠ [] ∨ s.rx ≠ []
  · obtain ⟨t, first, noReset', dropped', less, same⟩ := step_absorbs noReset busy
    obtain ⟨n, u, rest, idle, absorbed⟩ := run_absorbs t noReset' dropped'
    exact ⟨n + 1, u, (run_succ first n).trans rest, idle, absorbed.trans same⟩
  · obtain ⟨nothing, rx⟩ := not_or.1 busy
    rw [not_not] at nothing rx
    obtain ⟨chunk, off⟩ := dropped nothing
    have idle : s.Idle := ⟨chunk, off, rx, noReset⟩
    refine ⟨0, s, rfl, idle, ?_⟩
    rw [State.absorbed, State.stream, nothing, rx, idle.cleared]
    rfl
termination_by s.load

/-- Settles O55: both deliveries put the same bytes on the stream, and where a stream leads does not
depend on its chunks. -/
theorem chunkingChangesOnlyOffsets : Obligations.ChunkingChangesOnlyOffsets := by
  unfold Obligations.ChunkingChangesOnlyOffsets
  rintro s c1 c2 ⟨chunk, off, rx, noReset⟩
  have stream : (s.deliver (c1 ++ c2)).stream = ((s.deliver c1).deliver c2).stream := by
    simp [State.stream, State.pending]
  have absorbed : (s.deliver (c1 ++ c2)).absorbed = ((s.deliver c1).deliver c2).absorbed := by
    rw [State.absorbed, stream]
    rfl
  obtain ⟨m, t1, run1, idle1, end1⟩ :=
    run_absorbs (s.deliver (c1 ++ c2)) noReset fun _ => ⟨chunk, off⟩
  obtain ⟨n, t2, run2, idle2, end2⟩ :=
    run_absorbs ((s.deliver c1).deliver c2) noReset fun _ => ⟨chunk, off⟩
  have same : t1.forgetOffsets = t2.forgetOffsets := (end1.trans absorbed).trans end2.symm
  exact ⟨m, n, t1, t2, run1, run2, idle1, idle2,
    congrArg (fun t : State => { t with out := [] }) same, congrArg State.out same⟩

end Sys2Proof.Machine
end

section
/-! Every completed frame is answered with one message (43_dispatcher.md R138; 20_memory.md R50), and one
`END` empties a decoder in an unknown state (70_reset_and_hazards.md R195). -/

namespace Sys2Proof

theorem mem_requests_of_tableRequest {t : CmdTable} {f : Frame} {e : RequestEntry}
    {fields : List FieldVal} (h : tableRequest t f = .ok (e, fields)) : e ∈ t.requests := by
  unfold tableRequest at h
  split at h
  next => cases h
  next entry found =>
    split at h
    next => cases h
    next =>
      obtain ⟨rfl, -⟩ := Prod.mk.inj (Except.ok.inj h)
      exact List.mem_of_find?_eq_some found

end Sys2Proof

namespace Sys2Proof.Machine

/-! ## Legal handlers -/

theorem tableLegal_handler {t : CmdTable} {req : Byte} {resp : Byte → Bool}
    (h : tableLegal req resp t = true) {e : RequestEntry} (he : e ∈ t.requests) :
    handlerLegal t e.handler = true := by
  simp only [tableLegal, Bool.and_eq_true, List.all_eq_true] at h
  obtain ⟨⟨⟨requests, -⟩, -⟩, -⟩ := h
  obtain ⟨-, handler⟩ := requests e he
  exact handler

theorem cfgLegal_handler {c : Cfg} (legal : cfgLegal c.toCfgParams = true) {i : Itf} {e : RequestEntry}
    (he : e ∈ (cmdTable c i).requests) : handlerLegal (cmdTable c i) e.handler = true := by
  cases i with
  | gpio | pwm => cases he
  | uart => exact tableLegal_handler (cfgLegal_uartCmds legal) he
  | i2c =>
    obtain ⟨table, -⟩ := cfgLegal_i2cCmds legal
    exact tableLegal_handler table he

/-! ## One message, behind everything else -/

/-- Between `s` and `t`, one message that fits has left, and nothing else on TX, behind all else put out. -/
def State.AnsweredOnce (s t : State) : Prop :=
  ∃ (before : List OutEvent) (f : Frame), f.payload.length ≤ Config.payloadCap ∧
    t.out = s.out ++ before ++ [.tx (wire f.toBytes)] ∧ ∀ e ∈ before, e.message? = none

theorem State.answeredOnce_sendFrame {s u : State} {before : List OutEvent} {f : Frame}
    (fits : f.payload.length ≤ Config.payloadCap) (grown : u.out = s.out ++ before)
    (silent : ∀ e ∈ before, e.message? = none) : s.AnsweredOnce (u.sendFrame f) :=
  ⟨before, f, fits, by rw [u.sendFrame_fits f fits, State.answeredFrame_out, grown], silent⟩

theorem message?_of_mem_diag (reports : List DiagEvent) :
    ∀ e ∈ reports.map OutEvent.diag, e.message? = none := by
  intro e he
  obtain ⟨_, -, rfl⟩ := List.mem_map.1 he
  rfl

theorem State.answeredOnce_fail {s : State} (legal : reasonsLegal s.cfg.reason = true) (e : Failure) :
    s.AnsweredOnce (s.fail e) :=
  State.answeredOnce_sendFrame (e.response_fits _ legal) rfl (message?_of_mem_diag _)

theorem State.AnsweredOnce.tx {s t : State} (h : s.AnsweredOnce t) : ∃ m, t.tx = s.tx ++ [m] := by
  obtain ⟨before, f, -, out, silent⟩ := h
  rw [List.append_assoc] at out
  exact ⟨wire f.toBytes, by simp [State.tx_of_out out, List.filterMap_eq_nil_iff.2 silent]⟩

theorem exec_answeredOnce {i : Instr} {s t : State} (legal : s.TextsLegal) (h : exec i s = .next t) :
    s.AnsweredOnce t := by
  obtain ⟨g, hg, reports, log, f, answers, -, -, fits⟩ := exec_serves i s
  obtain rfl : g s = t := Host.Outcome.next.inj ((hg s).symm.trans h)
  rw [answers s (.refl s)]
  refine State.answeredOnce_sendFrame (fits legal) rfl fun e he => ?_
  obtain report | call := List.mem_append.1 he
  · exact message?_of_mem_diag reports e report
  · exact message?_of_mem_port log e call

section
variable {s : State} (legal : cfgLegal s.cfg.toCfgParams = true)
include legal

theorem State.runEntry_answeredOnce {i : Itf} {e : RequestEntry}
    (he : e ∈ (cmdTable s.cfg i).requests) (fields : List FieldVal) :
    s.AnsweredOnce (s.runEntry i e fields) := by
  obtain ⟨log, events, f, ran, -, silent, -, -, fits⟩ :=
    s.runHandler_cases i e.handler (fields.map Val.ofField)
  have short := fits _ (cfgLegal_handler legal he) (cfgLegal_reason legal)
  rw [State.runEntry, ran]
  exact State.answeredOnce_sendFrame (short.trans (by decide)) rfl silent

theorem State.runTable_answeredOnce (f : Frame) : s.AnsweredOnce (s.runTable f) := by
  have refused := State.answeredOnce_fail (cfgLegal_reason legal)
  unfold State.runTable
  split
  case h_1 i _ =>
    split
    case isTrue => exact refused _
    case isFalse =>
      split
      case h_3 e fields request =>
        exact State.runEntry_answeredOnce legal (mem_requests_of_tableRequest request) fields
      all_goals exact refused _
  all_goals exact refused _

theorem State.refuseArguments_answeredOnce (op : U16) : s.AnsweredOnce (s.refuseArguments op) := by
  have refused := State.answeredOnce_fail (cfgLegal_reason legal)
  unfold State.refuseArguments
  split
  case h_2 => split <;> exact refused _
  all_goals exact refused _

theorem processFrame_answeredOnce {f : Frame} {t : State} (h : processFrame f s = .next t) :
    s.AnsweredOnce t := by
  unfold processFrame at h
  split at h
  next => exact exec_answeredOnce ⟨cfgLegal_reason legal, cfgLegal_version legal⟩ h
  next => exact Host.Outcome.next.inj h ▸ State.refuseArguments_answeredOnce legal f.opcode
  next => exact Host.Outcome.next.inj h ▸ State.runTable_answeredOnce legal f

/-- Whatever the raw frame, one message leaves (R138, R152). -/
theorem handleFrame_answeredOnce {raw : Bytes} {t : State} (h : handleFrame raw s = .next t) :
    s.AnsweredOnce t := by
  unfold handleFrame at h
  split at h
  next => exact Host.Outcome.next.inj h ▸ State.answeredOnce_fail (cfgLegal_reason legal) _
  next => exact processFrame_answeredOnce legal h

end

/-- A frame without a byte is too short (R176, R195). -/
theorem State.handled_nil {s : State} (legal : reasonsLegal s.cfg.reason = true) :
    s.handled [] =
      (s.emitDiag (.frameError .tooShort)).answered (.errGeneric s.cfg.reason.tooShort) := by
  have refused : handleFrame [] s = .next (s.fail (.frame .tooShort)) := rfl
  rw [State.handled, refused]
  exact s.fail_eq (.frame .tooShort) legal

/-! ## One END -/

/-- What a decoder makes of an `END` on its own: a bad escape where one is pending, else a frame (R78). -/
theorem decFeed_end (cap : Nat) (d : Dec) :
    decFeed cap d [0xC0] = if d.esc then (.err .badEscape 0, d) else (.ok 1 true, d) := by
  obtain ⟨acc, _ | _⟩ := d <;> rfl

/-- Settles O51: the second step takes the `END` alone, which is a bad escape or completes a frame, and
either resets the decoder. -/
theorem oneEndResynchronises : Obligations.OneEndResynchronises := by
  unfold Obligations.OneEndResynchronises
  intro s inv idle
  obtain ⟨second, idle'⟩ := idle.step_byte 0xC0
  refine ⟨s.takeByte 0xC0, run_two (idle.step_deliver [0xC0]) second, idle', ?_⟩
  rw [State.takeByte, decFeed_end]
  cases esc : s.dec.esc with
  | true =>
    refine ⟨rfl, fun _ => ⟨?_, ?_⟩, nofun, fun empty => ?_⟩
    · simp [State.afterFeed, State.transportFail]
    · simp [State.afterFeed, State.transportFail]
    · simp [empty, Dec.empty] at esc
  | false =>
    refine ⟨rfl, nofun, fun _ => ?_, fun empty => ?_⟩
    · exact (handleFrame_answeredOnce inv.cfg (handleFrame_eq s.dec.acc (s.setDec s.dec))).tx
    · have answered := State.handled_nil (s := s.setDec Dec.empty) (cfgLegal_reason inv.cfg)
      rw [empty]
      change ((s.setDec Dec.empty).handled []).decReset.tx = _
      rw [answered]
      simp

end Sys2Proof.Machine
end

section
/-! What the checksum tells apart (41_frame_protocol.md R91, R93, R98): a bit round can be undone, so one
changed byte changes the checksum, whatever stands before and behind it. -/

namespace Sys2Proof

/-! ## Check values -/

theorem crc16_ff_ff : crc16 [0xFF, 0xFF] = 0x0000 := by decide +kernel

/-- Settles O1: the rounds of R91 run on the three texts; the checksum of `Good` is the third. -/
theorem crcCheckValues : Obligations.CrcCheckValues := by
  unfold Obligations.CrcCheckValues
  refine ⟨by decide +kernel, by decide +kernel, crc16_ff_ff, ?_⟩
  calc encode .good = be16 0xFFFF ++ be16 (crc16 [0xFF, 0xFF]) := rfl
    _ = [0xFF, 0xFF, 0x00, 0x00] := by rw [crc16_ff_ff]; rfl

/-! ## Bit rounds -/

/-- The bit shifted out comes back at the low end: the polynomial has its constant term. -/
theorem crcBit_getLsbD_zero (c : U16) : (crcBit c).getLsbD 0 = c.getLsbD 15 := by
  unfold crcBit
  split
  next top => simp [top, -BitVec.getLsbD_eq_getElem]
  next top => simp [top, -BitVec.getLsbD_eq_getElem]

theorem crcBit_getLsbD_succ (c : U16) {i : Nat} (h : i < 15) :
    (crcBit c).getLsbD (i + 1) =
      (c.getLsbD i ^^ (c.getLsbD 15 && (0x1021#16).getLsbD (i + 1))) := by
  have inside : i + 1 < 16 := by omega
  unfold crcBit
  split
  next top => simp [inside, top, -BitVec.getLsbD_eq_getElem]
  next top => simp [inside, top, -BitVec.getLsbD_eq_getElem]

theorem crcBit_injective : Function.Injective crcBit := by
  intro a b h
  have top : a.getLsbD 15 = b.getLsbD 15 := by
    rw [← crcBit_getLsbD_zero, ← crcBit_getLsbD_zero, h]
  refine BitVec.eq_of_getLsbD_eq fun i hi => ?_
  obtain rfl | low : i = 15 ∨ i < 15 := by omega
  · exact top
  · have bits := congrArg (fun c => c.getLsbD (i + 1)) h
    simpa only [crcBit_getLsbD_succ _ low, top, Bool.xor_left_inj] using bits

theorem crcBits_injective (n : Nat) : Function.Injective (crcBits n) := by
  induction n with
  | zero => exact fun _ _ h => h
  | succ n ih => exact ih.comp crcBit_injective

/-! ## Bytes -/

theorem crcByte_injective_register (b : Byte) : Function.Injective fun c => crcByte c b :=
  fun _ _ h => (BitVec.xor_left_inj _).1 (crcBits_injective 8 h)

theorem crcByte_injective_byte (c : U16) : Function.Injective (crcByte c) := by
  intro x y h
  have shifted : x.setWidth 16 <<< 8 = y.setWidth 16 <<< 8 :=
    (BitVec.xor_right_inj _).1 (crcBits_injective 8 h)
  bv_omega

theorem crcFrom_injective_register (data : Bytes) : Function.Injective fun c => crcFrom c data := by
  induction data with
  | nil => exact fun _ _ h => h
  | cons b rest ih => exact ih.comp (crcByte_injective_register b)

/-- One byte changed changes the checksum (R98): the registers differ behind that byte, and equal bytes
keep them apart. -/
theorem crcFrom_modify_ne {change : Byte → Byte} (changes : ∀ b, change b ≠ b) (c : U16)
    (data : Bytes) (k : Nat) (inside : k < data.length) :
    crcFrom c (data.modify k change) ≠ crcFrom c data := by
  induction data generalizing c k with
  | nil => exact absurd inside (Nat.not_lt_zero k)
  | cons b rest ih =>
    cases k with
    | zero =>
      intro same
      exact changes b (crcByte_injective_byte c (crcFrom_injective_register rest same))
    | succ k => exact ih (crcByte c b) k (Nat.lt_of_succ_lt_succ inside)

end Sys2Proof
end

section
/-! The laws of the raw frame that the spec infers (41_frame_protocol.md R97, R98): what was serialised is
parsed back, and a flipped bit is a checksum mismatch. -/

namespace Sys2Proof

/-! ## Round trip -/

/-- Settles O3: the frame of a well-formed message parses, and carries that message. -/
theorem encodedMessageDecodes : Obligations.EncodedMessageDecodes := by
  unfold Obligations.EncodedMessageDecodes
  exact fun _ wellFormed => decode_encode wellFormed

/-- Settles O5: the parser's checks pass one by one, and four bytes around a payload of 60 fill the
accumulator. -/
theorem frameSurvivesSerialisation : Obligations.FrameSurvivesSerialisation := by
  unfold Obligations.FrameSurvivesSerialisation
  intro known f isKnown fits
  constructor
  · rw [Frame.fromBytes_toBytes, if_neg (by simp [isKnown]), if_neg (Nat.not_lt.2 fits)]
  · intro short
    have room : f.toBytes.length ≤ Config.decCap := by
      rw [Frame.toBytes_length]
      exact Nat.add_le_add_right short 4
    exact decFeed_wire room

/-! ## Flipped bits -/

/-- A raw frame whose last two bytes are not the checksum of the bytes before them is refused for that,
whatever else it holds (R94). -/
theorem Frame.fromBytes_of_wrong_sum (known : U16 → Bool) {raw : Bytes} (long : 4 ≤ raw.length)
    (wrong : u16At (raw.drop (raw.length - 2)) ≠ crc16 (raw.take (raw.length - 2))) :
    Frame.fromBytes known raw = .error (.checksumMismatch (crc16 (raw.take (raw.length - 2)))
      (u16At (raw.drop (raw.length - 2)))) := by
  rw [Frame.fromBytes, if_neg (Nat.not_lt.2 long)]
  exact if_pos wrong

theorem be16_u16At {bytes : Bytes} (h : bytes.length = 2) : be16 (u16At bytes) = bytes := by
  obtain ⟨a, b, rfl⟩ := List.length_eq_two.1 h
  exact be16_u16Of a b

theorem xor_twoPow_ne {b : Nat} (h : b < 8) (x : Byte) : x ^^^ BitVec.twoPow 8 b ≠ x := by
  intro same
  have flipped := congrArg (fun v => v.getLsbD b) same
  simp [h] at flipped

open Machine

theorem flipBit_length (raw : Bytes) (k b : Nat) : (flipBit raw k b).length = raw.length :=
  List.length_modify _ _ _

theorem take_flipBit (raw : Bytes) (k b n : Nat) :
    (flipBit raw k b).take n = flipBit (raw.take n) k b :=
  List.take_modify _ _ _ _

theorem take_flipBit_of_le {n k : Nat} (h : n ≤ k) (raw : Bytes) (b : Nat) :
    (flipBit raw k b).take n = raw.take n := by
  rw [take_flipBit]
  exact List.modify_eq_self ((List.length_take_le n raw).trans h)

theorem drop_flipBit_of_lt {n k : Nat} (h : k < n) (raw : Bytes) (b : Nat) :
    (flipBit raw k b).drop n = raw.drop n :=
  List.drop_modify_of_lt _ _ _ _ h

theorem drop_flipBit_of_le {n k : Nat} (h : n ≤ k) (raw : Bytes) (b : Nat) :
    (flipBit raw k b).drop n = flipBit (raw.drop n) (k - n) b :=
  List.drop_modify_of_ge _ _ _ _ h

theorem flipBit_ne {raw : Bytes} {k b : Nat} (hk : k < raw.length) (hb : b < 8) :
    flipBit raw k b ≠ raw := by
  intro same
  have byte := congrArg (fun r => r[k]?) same
  rw [flipBit, List.getElem?_modify_eq, List.getElem?_eq_getElem hk] at byte
  exact xor_twoPow_ne hb _ (Option.some.inj byte)

theorem crc16_flipBit_ne {data : Bytes} {k b : Nat} (hk : k < data.length) (hb : b < 8) :
    crc16 (flipBit data k b) ≠ crc16 data :=
  crcFrom_modify_ne (xor_twoPow_ne hb) _ data k hk

theorem u16At_flipBit_be16_ne {k b : Nat} (hk : k < 2) (hb : b < 8) (v : U16) :
    u16At (flipBit (be16 v) k b) ≠ v := by
  intro same
  have field := be16_u16At (flipBit_length (be16 v) k b)
  rw [same] at field
  exact flipBit_ne hk hb field.symm

/-- Settles O6: a flip before the checksum field changes the checksum of the bytes before it, a flip in the
field changes the field. -/
theorem singleBitFlipIsCaught : Obligations.SingleBitFlipIsCaught := by
  unfold Obligations.SingleBitFlipIsCaught
  intro known f k b hk hb
  have length := f.toBytes_length
  refine ⟨_, _, Frame.fromBytes_of_wrong_sum known (by rw [flipBit_length]; omega) ?_⟩
  rw [flipBit_length]
  by_cases inBody : k < f.toBytes.length - 2
  · rw [drop_flipBit_of_lt inBody, take_flipBit, f.drop_toBytes, f.take_toBytes, u16At_be16]
    refine (crc16_flipBit_ne ?_ hb).symm
    rw [← f.take_toBytes, List.length_take]
    omega
  · have inField : k - (f.toBytes.length - 2) < 2 := by omega
    rw [take_flipBit_of_le (Nat.le_of_not_lt inBody), drop_flipBit_of_le (Nat.le_of_not_lt inBody),
      f.take_toBytes, f.drop_toBytes]
    exact u16At_flipBit_be16_ne inField hb f.checksum

end Sys2Proof
end

section
/-! The reads of the ArgParser said once as an `if` on the bytes that remain (41_frame_protocol.md R100 to
R104). -/

namespace Sys2Proof

theorem u16Of_toNat (a b : Byte) : (u16Of a b).toNat = a.toNat * 256 + b.toNat := by
  have := a.isLt
  have := b.isLt
  rw [u16Of, BitVec.toNat_ofNat]
  omega

theorem u32Of_toNat (a b c d : Byte) :
    (u32Of a b c d).toNat = ((a.toNat * 256 + b.toNat) * 256 + c.toNat) * 256 + d.toNat := by
  have := a.isLt
  have := b.isLt
  have := c.isLt
  have := d.isLt
  rw [u32Of, BitVec.toNat_ofNat]
  omega

@[simp] theorem bufRead_zero (buf : Bytes) (i : Nat) : bufRead buf i 0 = [] := List.take_zero

theorem bufRead_succ {buf : Bytes} {i : Nat} (h : i < buf.length) (n : Nat) :
    bufRead buf i (n + 1) = buf.getD i 0 :: bufRead buf (i + 1) n := by
  rw [bufRead, List.drop_eq_getElem_cons h, List.take_succ_cons, List.getD_eq_getElem _ _ h, bufRead]

namespace ArgParser

variable (p : ArgParser)

theorem consumeVector_eq (n : Nat) :
    p.consumeVector n =
      if p.pos + n ≤ p.buf.length then some (bufRead p.buf p.pos n, ⟨p.buf, p.pos + n⟩)
      else none := by
  by_cases enough : p.pos + n ≤ p.buf.length
  · rw [if_pos enough, consumeVector, if_neg (Nat.not_lt.2 enough)]
  · rw [if_neg enough, consumeVector, if_pos (Nat.lt_of_not_le enough)]

theorem consumeU8_eq :
    p.consumeU8 =
      if p.pos + 1 ≤ p.buf.length then some (p.buf.getD p.pos 0, ⟨p.buf, p.pos + 1⟩)
      else none := by
  rw [consumeU8, consumeVector_eq]
  by_cases enough : p.pos + 1 ≤ p.buf.length
  · simp only [if_pos enough, bufRead_succ enough, bufRead_zero]
  · simp only [if_neg enough]

theorem consumeU16_eq :
    p.consumeU16 =
      if p.pos + 2 ≤ p.buf.length then
        some (u16Of (p.buf.getD p.pos 0) (p.buf.getD (p.pos + 1) 0), ⟨p.buf, p.pos + 2⟩)
      else none := by
  rw [consumeU16, consumeVector_eq]
  by_cases enough : p.pos + 2 ≤ p.buf.length
  · have bytes : bufRead p.buf p.pos 2 = [p.buf.getD p.pos 0, p.buf.getD (p.pos + 1) 0] := by
      rw [bufRead_succ (by omega), bufRead_succ (by omega), bufRead_zero]
    simp only [if_pos enough, bytes]
  · simp only [if_neg enough]

theorem consumeU32_eq :
    p.consumeU32 =
      if p.pos + 4 ≤ p.buf.length then
        some (u32Of (p.buf.getD p.pos 0) (p.buf.getD (p.pos + 1) 0) (p.buf.getD (p.pos + 2) 0)
          (p.buf.getD (p.pos + 3) 0), ⟨p.buf, p.pos + 4⟩)
      else none := by
  rw [consumeU32, consumeVector_eq]
  by_cases enough : p.pos + 4 ≤ p.buf.length
  · have bytes : bufRead p.buf p.pos 4 = [p.buf.getD p.pos 0, p.buf.getD (p.pos + 1) 0,
        p.buf.getD (p.pos + 2) 0, p.buf.getD (p.pos + 3) 0] := by
      rw [bufRead_succ (by omega), bufRead_succ (by omega), bufRead_succ (by omega),
        bufRead_succ (by omega), bufRead_zero]
    simp only [if_pos enough, bytes]
  · simp only [if_neg enough]

end ArgParser

/-- Settles O8: each read is `consume_vector` of its width, whose bytes are the ones at the cursor. -/
theorem argParserReadsBigEndian : Obligations.ArgParserReadsBigEndian := by
  unfold Obligations.ArgParserReadsBigEndian
  exact fun p => ⟨p.consumeU8_eq, p.consumeU16_eq, p.consumeU32_eq, p.consumeVector_eq, u16Of_toNat,
    u32Of_toNat⟩

end Sys2Proof
end

section
/-! Reads of a cursor that stands between the bytes before it and those behind it (41_frame_protocol.md
R99 to R105): each takes the bytes of the value it answers. -/

namespace Sys2Proof

/-- The cursor over `before ++ rest` that stands where `rest` begins. -/
def ArgParser.between (before rest : Bytes) : ArgParser := ⟨before ++ rest, before.length⟩

namespace ArgParser

theorem new_eq_between (payload : Bytes) : ArgParser.new payload = between [] payload := rfl

variable {before rest : Bytes} {p : ArgParser}

theorem consumeVector_between_iff {n : Nat} {v : Bytes} :
    (between before rest).consumeVector n = some (v, p) ↔
      ∃ rest', rest = v ++ rest' ∧ v.length = n ∧ p = between (before ++ v) rest' := by
  rw [consumeVector_eq]
  constructor
  · intro h
    split at h
    next enough =>
      obtain ⟨rfl, rfl⟩ := Prod.mk.inj (Option.some.inj h)
      have long : n ≤ rest.length := by simpa [between] using enough
      exact ⟨rest.drop n, by simp [bufRead, between], by simp [bufRead, between, long],
        by simp [bufRead, between, long]⟩
    next => cases h
  · rintro ⟨rest', rfl, rfl, rfl⟩
    simp [bufRead, between]

theorem consumeU8_between_iff {b : Byte} :
    (between before rest).consumeU8 = some (b, p) ↔
      ∃ rest', rest = b :: rest' ∧ p = between (before ++ [b]) rest' := by
  constructor
  · intro h
    unfold consumeU8 at h
    split at h
    next read =>
      cases h
      obtain ⟨rest', parts, -, stands⟩ := consumeVector_between_iff.1 read
      exact ⟨rest', parts, stands⟩
    next => cases h
  · rintro ⟨rest', rfl, rfl⟩
    have read : (between before (b :: rest')).consumeVector 1 =
        some ([b], between (before ++ [b]) rest') :=
      consumeVector_between_iff.2 ⟨rest', rfl, rfl, rfl⟩
    simp only [consumeU8, read]

theorem consumeU16_between_iff {v : U16} :
    (between before rest).consumeU16 = some (v, p) ↔
      ∃ rest', rest = be16 v ++ rest' ∧ p = between (before ++ be16 v) rest' := by
  constructor
  · intro h
    unfold consumeU16 at h
    split at h
    next read =>
      cases h
      obtain ⟨rest', parts, -, stands⟩ := consumeVector_between_iff.1 read
      exact ⟨rest', by rw [be16_u16Of, parts], by rw [be16_u16Of, stands]⟩
    next => cases h
  · rintro ⟨rest', rfl, rfl⟩
    have read : (between before (be16 v ++ rest')).consumeVector 2 =
        some (be16 v, between (before ++ be16 v) rest') :=
      consumeVector_between_iff.2 ⟨rest', rfl, be16_length v, rfl⟩
    rw [consumeU16, read]
    simp only [be16, u16Of_split]

theorem consumeU32_between_iff {v : U32} :
    (between before rest).consumeU32 = some (v, p) ↔
      ∃ rest', rest = be32 v ++ rest' ∧ p = between (before ++ be32 v) rest' := by
  constructor
  · intro h
    unfold consumeU32 at h
    split at h
    next read =>
      cases h
      obtain ⟨rest', parts, -, stands⟩ := consumeVector_between_iff.1 read
      exact ⟨rest', by rw [be32_u32Of, parts], by rw [be32_u32Of, stands]⟩
    next => cases h
  · rintro ⟨rest', rfl, rfl⟩
    have read : (between before (be32 v ++ rest')).consumeVector 4 =
        some (be32 v, between (before ++ be32 v) rest') :=
      consumeVector_between_iff.2 ⟨rest', rfl, be32_length v, rfl⟩
    rw [consumeU32, read]
    simp only [be32, u32Of_split]

theorem consumeF32_between_iff {v : F32} :
    (between before rest).consumeF32 = some (v, p) ↔
      ∃ rest', rest = be32 v ++ rest' ∧ p = between (before ++ be32 v) rest' :=
  consumeU32_between_iff

end ArgParser

end Sys2Proof
end

section
/-! A frame and the message it carries (42_command_model.md R107, R133): the payload of the message is
what the row's fields were read from, and only what is left over behind them can differ. -/

namespace Sys2Proof

theorem Id8.toBytes_of_ofBytes {bytes : Bytes} {id : Id8} (h : Id8.ofBytes bytes = some id) :
    id.toBytes = bytes := by
  unfold Id8.ofBytes at h
  split at h
  next => cases h; rfl
  next => cases h

/-! ## The decode shapes of the rows -/

section
variable {before payload : Bytes} {i : Instr}

theorem decodeU8_between {mk : Byte → Instr} (h : decodeU8 mk (.between before payload) = some i) :
    ∃ a rest, payload = a :: rest ∧ mk a = i := by
  unfold decodeU8 at h
  split at h
  next => cases h
  next a _ first =>
    obtain ⟨rest, parts, -⟩ := ArgParser.consumeU8_between_iff.1 first
    exact ⟨a, rest, parts, Option.some.inj h⟩

theorem decodeU8U8_between {mk : Byte → Byte → Instr}
    (h : decodeU8U8 mk (.between before payload) = some i) :
    ∃ a b rest, payload = a :: b :: rest ∧ mk a b = i := by
  unfold decodeU8U8 at h
  split at h
  next => cases h
  next a _ first =>
    obtain ⟨behind, rfl, rfl⟩ := ArgParser.consumeU8_between_iff.1 first
    split at h
    next => cases h
    next b _ second =>
      obtain ⟨rest, rfl, -⟩ := ArgParser.consumeU8_between_iff.1 second
      exact ⟨a, b, rest, rfl, Option.some.inj h⟩

theorem decodeU8F32_between {mk : Byte → F32 → Instr}
    (h : decodeU8F32 mk (.between before payload) = some i) :
    ∃ a v rest, payload = a :: (be32 v ++ rest) ∧ mk a v = i := by
  unfold decodeU8F32 at h
  split at h
  next => cases h
  next a _ first =>
    obtain ⟨behind, rfl, rfl⟩ := ArgParser.consumeU8_between_iff.1 first
    split at h
    next => cases h
    next v _ second =>
      obtain ⟨rest, rfl, -⟩ := ArgParser.consumeF32_between_iff.1 second
      exact ⟨a, v, rest, rfl, Option.some.inj h⟩

theorem consumeId8_between {id : Id8} {p : ArgParser}
    (h : (ArgParser.between before payload).consumeId8 = some (id, p)) :
    ∃ rest, payload = id.toBytes ++ rest := by
  unfold ArgParser.consumeId8 at h
  split at h
  next bytes _ read =>
    obtain ⟨id', hid, same⟩ := Option.map_eq_some_iff.1 h
    cases same
    obtain ⟨rest, parts, -⟩ := ArgParser.consumeVector_between_iff.1 read
    exact ⟨rest, by rw [Id8.toBytes_of_ofBytes hid, parts]⟩
  next => cases h

/-- The payload a row was read from is that of the message read, and the bytes left over. -/
theorem Op.payload_of_decodeArgs {o : Op} (h : o.decodeArgs (.new payload) = some i) :
    ∃ rest, payload = i.payload ++ rest := by
  rw [ArgParser.new_eq_between] at h
  cases o with
  | gpioDirGet | gpioRead | pwmGetDutyCycle | pwmGetFrequency | respItfType =>
    obtain ⟨a, rest, rfl, rfl⟩ := decodeU8_between h
    exact ⟨rest, rfl⟩
  | gpioDirSet | gpioWrite | respGpioDir | respGpioValue =>
    obtain ⟨a, b, rest, rfl, rfl⟩ := decodeU8U8_between h
    exact ⟨rest, rfl⟩
  | pwmSetDutyCycle | pwmSetFrequency | respPwmDuty | respPwmFreq =>
    obtain ⟨a, v, rest, rfl, rfl⟩ := decodeU8F32_between h
    exact ⟨rest, rfl⟩
  | respId =>
    obtain ⟨r, read, rfl⟩ := Option.map_eq_some_iff.1 h
    exact consumeId8_between read
  | errGeneric | errInvalidArgs | respVersion =>
    obtain rfl := Option.some.inj h
    exact ⟨[], (List.append_nil payload).symm⟩
  | ping | itfType | version | idGet | good | errCRC | errUnknownCode | errBusy =>
    obtain rfl := Option.some.inj h
    exact ⟨payload, rfl⟩

end

/-- A frame is the frame of its message with the bytes left over behind it. -/
theorem Frame.eq_of_message {f : Frame} {i : Instr} (h : f.message = .ok i) :
    ∃ rest, f = ⟨i.op.code, i.payload ++ rest⟩ := by
  obtain ⟨o, -, read⟩ := Frame.message_ok h
  obtain ⟨rest, hpayload⟩ := Op.payload_of_decodeArgs read
  exact ⟨rest, by rw [Frame.opcode_of_message h, ← hpayload]⟩

/-- Settles O4: every field is read back from its own bytes, and a frame is the frame of its message
with the bytes left over behind it. -/
theorem messageFrameRoundTrip : Obligations.MessageFrameRoundTrip := by
  unfold Obligations.MessageFrameRoundTrip
  refine ⟨Instr.message_toFrame, fun f i h => ?_⟩
  obtain ⟨rest, rfl⟩ := Frame.eq_of_message h
  simp [Instr.toFrame]

end Sys2Proof
end

section
/-! The fields of a command table's message are read back from their bytes (30_encoding.md R62;
42_command_model.md R107). -/

namespace Sys2Proof

/-- A field is read back from its bytes, a `text` where no byte stands behind it. -/
theorem FieldVal.consumeField_toBytes {v : FieldVal} {t : FieldTy} (typed : v.hasTy t = true)
    (before : Bytes) {rest : Bytes} (last : t = .text → rest = []) :
    (ArgParser.between before (v.toBytes ++ rest)).consumeField t =
      some (v, .between (before ++ v.toBytes) rest) := by
  cases v with
  | u8 b =>
    cases t with
    | u8 =>
      exact Option.map_eq_some_iff.2 ⟨_, ArgParser.consumeU8_between_iff.2 ⟨rest, rfl, rfl⟩, rfl⟩
    | _ => cases typed
  | u16 b =>
    cases t with
    | u16 =>
      exact Option.map_eq_some_iff.2 ⟨_, ArgParser.consumeU16_between_iff.2 ⟨rest, rfl, rfl⟩, rfl⟩
    | _ => cases typed
  | u32 b =>
    cases t with
    | u32 =>
      exact Option.map_eq_some_iff.2 ⟨_, ArgParser.consumeU32_between_iff.2 ⟨rest, rfl, rfl⟩, rfl⟩
    | _ => cases typed
  | f32 b =>
    cases t with
    | f32 =>
      exact Option.map_eq_some_iff.2 ⟨_, ArgParser.consumeF32_between_iff.2 ⟨rest, rfl, rfl⟩, rfl⟩
    | _ => cases typed
  | bytes b =>
    cases t with
    | vec n =>
      have length : b.length = n := beq_iff_eq.1 typed
      exact Option.map_eq_some_iff.2
        ⟨_, ArgParser.consumeVector_between_iff.2 ⟨rest, rfl, length, rfl⟩, rfl⟩
    | text =>
      obtain rfl := last rfl
      simp [ArgParser.consumeField, ArgParser.consumeRest, ArgParser.between, FieldVal.toBytes]
    | _ => cases typed

theorem text_last_of_layoutLegal {t : FieldTy} {ts : List FieldTy}
    (h : Machine.layoutLegal (t :: ts) = true) : t = .text → ts = [] := by
  rintro rfl
  cases ts with
  | nil => rfl
  | cons => simp [Machine.layoutLegal] at h

theorem layoutLegal_tail {t : FieldTy} {ts : List FieldTy}
    (h : Machine.layoutLegal (t :: ts) = true) : Machine.layoutLegal ts = true := by
  cases ts with
  | nil => rfl
  | cons =>
    obtain ⟨-, tail⟩ := Bool.and_eq_true_iff.1 h
    exact tail

/-- A layout with a `text` at most at its end is read back from the bytes of fields that fill it. -/
theorem consumeLayout_toBytes {fields : List FieldVal} {layout : List FieldTy}
    (fills : fillsLayout fields layout = true) (legal : Machine.layoutLegal layout = true)
    (before : Bytes) :
    (ArgParser.between before (fields.flatMap FieldVal.toBytes)).consumeLayout layout =
      some fields := by
  induction layout generalizing fields before with
  | nil =>
    cases fields with
    | nil => rfl
    | cons => cases fills
  | cons t ts ih =>
    cases fields with
    | nil => cases fills
    | cons v vs =>
      obtain ⟨typed, fillsRest⟩ := Bool.and_eq_true_iff.1 fills
      have last : t = .text → vs.flatMap FieldVal.toBytes = [] := by
        intro isText
        obtain rfl := text_last_of_layoutLegal legal isText
        cases vs with
        | nil => rfl
        | cons => cases fillsRest
      rw [List.flatMap_cons, ArgParser.consumeLayout,
        FieldVal.consumeField_toBytes typed before last]
      simp only [ih fillsRest (layoutLegal_tail legal), Option.map_some]

/-- Where no two members share a key, a member is found by its key. -/
theorem find?_key_of_nodup {α : Type} {key : α → U16} {l : List α} (distinct : (l.map key).Nodup)
    {a : α} (ha : a ∈ l) : (l.find? fun b => key b == key a) = some a := by
  have found : (l.find? fun b => key b == key a).isSome = true :=
    List.find?_isSome.2 ⟨a, ha, BEq.rfl⟩
  obtain ⟨b, hb⟩ := Option.isSome_iff_exists.1 found
  have sameKey : key b = key a := by simpa using List.find?_some hb
  rw [hb, List.inj_on_of_nodup_map distinct (List.mem_of_find?_eq_some hb) ha sameKey]

/-- A request of a legal table is found by its opcode and read from its bytes. -/
theorem tableRequest_toFrame {t : CmdTable} (distinct : (t.requests.map (·.opcode)).Nodup)
    {e : RequestEntry} (he : e ∈ t.requests) (legal : Machine.layoutLegal e.layout = true)
    {fields : List FieldVal} (fills : fillsLayout fields e.layout = true) :
    tableRequest t (Message.request e fields).toFrame = .ok (e, fields) := by
  have found : (t.requests.find? fun x => x.opcode == e.opcode) = some e :=
    find?_key_of_nodup distinct he
  have read : (ArgParser.new (fields.flatMap FieldVal.toBytes)).consumeLayout e.layout =
      some fields := consumeLayout_toBytes fills legal []
  simp only [tableRequest, Message.toFrame, found, read]

/-- A response of a legal table is found by its opcode and read from its bytes. -/
theorem tableResponse_toFrame {t : CmdTable} (distinct : (t.responses.map (·.opcode)).Nodup)
    {e : ResponseEntry} (he : e ∈ t.responses) (legal : Machine.layoutLegal e.layout = true)
    {fields : List FieldVal} (fills : fillsLayout fields e.layout = true) :
    tableResponse t (Message.response e fields).toFrame = .ok (e, fields) := by
  have found : (t.responses.find? fun x => x.opcode == e.opcode) = some e :=
    find?_key_of_nodup distinct he
  have read : (ArgParser.new (fields.flatMap FieldVal.toBytes)).consumeLayout e.layout =
      some fields := consumeLayout_toBytes fills legal []
  simp only [tableResponse, Message.toFrame, found, read]

end Sys2Proof

namespace Sys2Proof.Machine

/-! ## The entries of a legal configuration -/

section
variable {t : CmdTable} {req : Byte} {resp : Byte → Bool}

theorem tableLegal_distinct (h : tableLegal req resp t = true) :
    (t.requests.map (·.opcode)).Nodup ∧ (t.responses.map (·.opcode)).Nodup := by
  simp only [tableLegal, Bool.and_eq_true, decide_eq_true_eq] at h
  obtain ⟨⟨-, requests⟩, responses⟩ := h
  exact ⟨requests, responses⟩

theorem layoutLegal_of_mem_requests (h : tableLegal req resp t = true) {e : RequestEntry}
    (he : e ∈ t.requests) : layoutLegal e.layout = true := by
  simp only [tableLegal, Bool.and_eq_true, List.all_eq_true] at h
  obtain ⟨⟨⟨requests, -⟩, -⟩, -⟩ := h
  obtain ⟨⟨-, layout⟩, -⟩ := requests e he
  exact layout

theorem layoutLegal_of_mem_responses (h : tableLegal req resp t = true) {e : ResponseEntry}
    (he : e ∈ t.responses) : layoutLegal e.layout = true := by
  simp only [tableLegal, Bool.and_eq_true, List.all_eq_true] at h
  obtain ⟨⟨⟨-, responses⟩, -⟩, -⟩ := h
  obtain ⟨-, layout⟩ := responses e he
  exact layout

end

/-- An interface with messages among the rows is GPIO or PWM, which have no command table (R60). -/
theorem cmdTable_of_category_code {c : Cfg} {o : Op} {i : Itf}
    (h : category c o.code = some (.requestPerInterface i) ∨
      category c o.code = some (.responsePerInterface i)) : cmdTable c i = Config.emptyTable := by
  have rows : ∃ k, category c o.code = some k ∧
      ((k = .requestPerInterface i ∨ k = .responsePerInterface i) → i = .gpio ∨ i = .pwm) := by
    cases o <;> exact ⟨_, rfl, by cases i <;> simp⟩
  obtain ⟨k, hk, concrete⟩ := rows
  rw [hk, Option.some_inj, Option.some_inj] at h
  obtain rfl | rfl := concrete h <;> rfl

section
variable {c : Cfg} (legal : cfgLegal c.toCfgParams = true) {itf : Itf} {fields : List FieldVal}
include legal

/-- The command table of every interface is legal; GPIO and PWM have the empty one. -/
theorem cfgLegal_cmdTable (itf : Itf) :
    ∃ req resp, tableLegal req resp (cmdTable c itf) = true := by
  cases itf with
  | gpio | pwm => exact ⟨0, fun _ => true, rfl⟩
  | uart => exact ⟨_, _, cfgLegal_uartCmds legal⟩
  | i2c =>
    obtain ⟨table, -⟩ := cfgLegal_i2cCmds legal
    exact ⟨_, _, table⟩

theorem ofCode_of_mem_requests {e : RequestEntry} (he : e ∈ (cmdTable c itf).requests) :
    Op.ofCode e.opcode = none := by
  have hcat := category_of_request legal he
  refine Option.eq_none_iff_forall_ne_some.2 fun o ho => ?_
  rw [← Op.ofCode_some ho] at hcat
  rw [cmdTable_of_category_code (.inl hcat)] at he
  cases he

theorem ofCode_of_mem_responses {e : ResponseEntry} (he : e ∈ (cmdTable c itf).responses) :
    Op.ofCode e.opcode = none := by
  have hcat := category_of_response legal he
  refine Option.eq_none_iff_forall_ne_some.2 fun o ho => ?_
  rw [← Op.ofCode_some ho] at hcat
  rw [cmdTable_of_category_code (.inr hcat)] at he
  cases he

theorem requestFromFrame_request {e : RequestEntry} (he : e ∈ (cmdTable c itf).requests)
    (fills : fillsLayout fields e.layout = true) :
    requestFromFrame c (.interface itf) (Message.request e fields).toFrame =
      .ok (.request e fields) := by
  obtain ⟨req, resp, table⟩ := cfgLegal_cmdTable legal itf
  obtain ⟨distinct, -⟩ := tableLegal_distinct table
  have notRow : Op.ofCode (Message.request e fields).toFrame.opcode = none :=
    ofCode_of_mem_requests legal he
  simp only [requestFromFrame, notRow,
    tableRequest_toFrame distinct he (layoutLegal_of_mem_requests table he) fills, Except.map]

theorem responseFromFrame_response {e : ResponseEntry} (he : e ∈ (cmdTable c itf).responses)
    (fills : fillsLayout fields e.layout = true) :
    responseFromFrame c itf (Message.response e fields).toFrame = .ok (.response e fields) := by
  obtain ⟨req, resp, table⟩ := cfgLegal_cmdTable legal itf
  obtain ⟨-, distinct⟩ := tableLegal_distinct table
  have notRow : Op.ofCode (Message.response e fields).toFrame.opcode = none :=
    ofCode_of_mem_responses legal he
  simp only [responseFromFrame, notRow,
    tableResponse_toFrame distinct he (layoutLegal_of_mem_responses table he) fills, Except.map]

end

end Sys2Proof.Machine
end

section
/-! The decoders of R107 on the frames of messages: the request decoder of each set and the response
decoder of a host (42_command_model.md R106, R107). -/

namespace Sys2Proof

theorem Instr.ofCode_toFrame (i : Instr) : Op.ofCode i.toFrame.opcode = some i.op :=
  Op.ofCode_code i.op

theorem Instr.decodeArgs_toFrame (i : Instr) :
    i.op.decodeArgs (ArgParser.new i.toFrame.payload) = some i := by
  obtain ⟨o, ho, read⟩ := Frame.message_ok i.message_toFrame
  rwa [← Op.op_of_decodeArgs read] at read

theorem requestFromFrame_toFrame (c : Cfg) (i : Instr) (set : RequestSet) :
    requestFromFrame c set i.toFrame =
      if i.op.requestSet = some set then .ok (.row i) else .error .notForThisInterface := by
  simp only [requestFromFrame, i.ofCode_toFrame, i.decodeArgs_toFrame]

theorem responseFromFrame_toFrame (c : Cfg) (i : Instr) (itf : Itf) :
    responseFromFrame c itf i.toFrame =
      if i.op.responseSet = some .generic ∨ i.op.responseSet = some (.interface itf) then
        .ok (.row i)
      else .error .notAResponse := by
  simp only [responseFromFrame, i.ofCode_toFrame, i.decodeArgs_toFrame]

/-- Every row is a request or a response, and not both. -/
theorem Op.requestSet_eq_none_iff (o : Op) : o.requestSet = none ↔ o.responseSet ≠ none := by
  cases o <;> decide

end Sys2Proof

namespace Sys2Proof.Machine

/-- Settles O11: the opcode of a row's frame gives its row, whose sets decide; the opcode of a table
entry's frame is that of no row and of no other entry, and its fields are read from their bytes. -/
theorem decodersTakeOnlyTheirOwnSet : Obligations.DecodersTakeOnlyTheirOwnSet := by
  unfold Obligations.DecodersTakeOnlyTheirOwnSet
  exact ⟨fun c i => ⟨requestFromFrame_toFrame c i, responseFromFrame_toFrame c i,
      i.op.requestSet_eq_none_iff⟩,
    fun _ _ _ legal => ⟨fun _ he => requestFromFrame_request legal he,
      fun _ he => responseFromFrame_response legal he⟩⟩

end Sys2Proof.Machine
end

section
/-! Every reported frequency is a finite positive pattern (42_command_model.md R132): a frequency of
registers in their ranges is far above the least positive pattern, and one beyond the largest finite
pattern rounds to that. -/

namespace Sys2Proof

/-- Rounding a positive number gives the largest finite pattern, or the rounded significand at the unit
in the last place. -/
theorem f32Value_rne32_cases {q : Rat} (hq : 0 < q) :
    f32Value (rne32 q) = .fin f32MaxValue ∨
      f32Value (rne32 q) = .fin (rneSig q * 2 ^ rneUlpExp q) := by
  by_cases beyond : rneBits q ≥ 0x7F800000
  · left
    rw [rne32_eq, if_pos beyond, f32Value_f32Max]
  · right
    have finite : rneBits q < 0x7F800000 := Nat.lt_of_not_le beyond
    rw [rne32_of_bits_lt finite]
    exact f32Value_f32Bits (neg_le_rneUlpExp q) (rneSig_le hq) (rneSig_normal_or_least hq) finite

/-- The significand is not zero from the least positive pattern on. -/
theorem rneSig_pos {q : Rat} (hq : 2 ^ (-149 : Int) ≤ q) : 0 < rneSig q := by
  have pos : 0 < q := lt_of_lt_of_le (by positivity) hq
  have scaled : ((1 : Nat) : Rat) ≤ rneScaled q := by
    obtain normal | least := rneScaled_normal_or_least pos
    · exact le_trans (by norm_num) normal
    · rw [rneScaled, least, le_div_iff₀ (by positivity)]
      simpa using hq
  exact le_roundHalfEven (rneScaled_pos pos).le scaled

theorem f32Value_rne32_pos {q : Rat} (hq : 2 ^ (-149 : Int) ≤ q) :
    ∃ r : Rat, f32Value (rne32 q) = .fin r ∧ 0 < r := by
  have pos : 0 < q := lt_of_lt_of_le (by positivity) hq
  obtain largest | rounded := f32Value_rne32_cases pos
  · exact ⟨_, largest, by norm_num [f32MaxValue]⟩
  · have sig : 0 < rneSig q := rneSig_pos hq
    exact ⟨_, rounded, by positivity⟩

section
variable {fsys top di df : Nat} (pc : Bool)

theorem pwmPeriod_pos (hdi : 1 ≤ di) : 0 < pwmPeriod top pc di df := by
  have divider : (0 : Rat) < di := by exact_mod_cast hdi
  cases pc <;> simp only [pwmPeriod] <;> positivity

/-- The longest period of registers in their ranges (R158). -/
theorem pwmPeriod_le (htop : top ≤ 65535) (hdi : di ≤ 255) (hdf : df ≤ 15) :
    pwmPeriod top pc di df ≤ 2 ^ 25 := by
  have counts : (top : Rat) + 1 ≤ 2 ^ 16 := by exact_mod_cast Nat.succ_le_succ htop
  have slopes : (if pc then 2 else 1 : Rat) ≤ 2 := by cases pc <;> norm_num
  have divider : (di : Rat) + df / 16 ≤ 2 ^ 8 := by
    have whole : (di : Rat) ≤ 255 := by exact_mod_cast hdi
    have fraction : (df : Rat) ≤ 15 := by exact_mod_cast hdf
    linarith
  calc pwmPeriod top pc di df
      = ((top : Rat) + 1) * (if pc then 2 else 1) * (di + df / 16) := rfl
    _ ≤ 2 ^ 16 * 2 * 2 ^ 8 := by gcongr
    _ = 2 ^ 25 := by norm_num

theorem le_pwmFrequency (hfsys : 1 ≤ fsys) (htop : top ≤ 65535) (one_le_di : 1 ≤ di)
    (hdi : di ≤ 255) (hdf : df ≤ 15) : 1 / 2 ^ 25 ≤ pwmFrequency fsys top pc di df := by
  have clock : (1 : Rat) ≤ fsys := by exact_mod_cast hfsys
  exact div_le_div₀ (by positivity) clock (pwmPeriod_pos pc one_le_di)
    (pwmPeriod_le pc htop hdi hdf)

end

/-- Settles O39: no frequency of registers in their ranges is below `2^-25`, which is above the least
positive pattern. -/
theorem reportedFrequencyIsFinitePositive : Obligations.ReportedFrequencyIsFinitePositive := by
  unfold Obligations.ReportedFrequencyIsFinitePositive
  intro fsys top di df pc hfsys htop one_le_di hdi hdf
  have above := le_pwmFrequency pc hfsys htop one_le_di hdi hdf
  exact f32Value_rne32_pos (le_trans (by norm_num) above)

end Sys2Proof
end

section
/-! What sending puts out (43_dispatcher.md R156, 60_exceptions.md R182) and the generic requests
(43_dispatcher.md R139 to R142). -/

namespace Sys2Proof.Machine

/-! ## Sending -/

/-- What sending a raw frame puts out, by the length of its wire form. -/
theorem sentEvent_spec (raw : Bytes) :
    ((wire raw).length ≤ Config.encCap ∧ sentEvent raw = .tx (wire raw)) ∨
      (Config.encCap < (wire raw).length ∧
        ∃ k, k ≤ raw.length ∧ sentEvent raw = .diag (.txDropped k)) := by
  obtain ⟨fed, -⟩ | ⟨n, short, fed, -, full⟩ :=
    encFeedFrom_cases Config.encCap 0 [] raw (Nat.zero_le _)
  · obtain ⟨full, refused⟩ | ⟨room, finished⟩ :=
      encFinish_cases Config.encCap (raw.flatMap stuff)
    · refine .inr ⟨by rwa [wire_length], 0, Nat.zero_le _, ?_⟩
      simp only [sentEvent, encFeed, fed, List.nil_append, refused]
    · refine .inl ⟨by rwa [wire_length], ?_⟩
      simp only [sentEvent, encFeed, fed, List.nil_append, finished, wire]
  · have partLength : ((raw.take (n + 1)).flatMap stuff).length ≤ (raw.flatMap stuff).length :=
      ((List.take_sublist (n + 1) raw).flatMap stuff).length_le
    refine .inr ⟨?_, n, short.le, ?_⟩
    · rw [wire_length]
      simp only [List.length_nil] at full
      omega
    · simp only [sentEvent, encFeed, fed, Nat.zero_add]

/-- Settles O17: the encoder refuses while stuffing or at the closing `END`, and only what is longer than
it. -/
theorem onlyFittingResponsesLeave : Obligations.OnlyFittingResponsesLeave := by
  unfold Obligations.OnlyFittingResponsesLeave
  intro s raw
  rw [s.sendRaw_eq raw]
  obtain ⟨fits, sent⟩ | ⟨long, k, inside, dropped⟩ := sentEvent_spec raw
  · exact ⟨fun _ => by rw [sent], fun long => absurd fits (Nat.not_le.2 long)⟩
  · exact ⟨fun fits => absurd fits (Nat.not_le.2 long), fun _ => ⟨k, inside, by rw [dropped]⟩⟩

/-- A message that may be encoded leaves (R134, R156). -/
theorem State.send_of_wellFormed {m : Instr} (h : m.wellFormed = true) (s : State) :
    s.send m = s.answered m :=
  s.send_fits m ((Instr.payload_length_of_wellFormed h).trans (by decide))

/-! ## The generic requests -/

/-- Settles O18: the three responses fit, the version text by its limit of 60 bytes. -/
theorem genericRequestsAreAnswered : Obligations.GenericRequestsAreAnswered := by
  unfold Obligations.GenericRequestsAreAnswered
  intro s short
  have versionFits : (Instr.respVersion s.cfg.version).payload.length ≤ Config.payloadCap :=
    short.trans (by decide)
  exact ⟨congrArg Host.Outcome.next (State.send_of_wellFormed rfl s),
    congrArg Host.Outcome.next (State.send_of_wellFormed rfl s),
    congrArg Host.Outcome.next (s.send_fits _ versionFits)⟩

/-- Settles O19: the response with the id fits, and a step without a reset keeps all configuration
registers. -/
theorem idGetAnswersDeviceId : Obligations.IdGetAnswersDeviceId := by
  unfold Obligations.IdGetAnswersDeviceId
  intro s
  refine ⟨congrArg Host.Outcome.next (State.send_of_wellFormed rfl s), fun t noReset h => ?_⟩
  rw [step_of_noReset s noReset] at h
  obtain ⟨sameCfg, -⟩ := loopStep_keeps h
  rw [sameCfg]

end Sys2Proof.Machine
end

section
/-! The requests served by one port call (43_dispatcher.md R137, R143 to R148). -/

namespace Sys2Proof.Machine

/-- A request of the installed interface served by one port call: its response on `Ok`, HW_FAIL on `Err`
(R137). -/
theorem State.portRequest_eq {s : State} {i : Itf} {reply : PortVal → Instr} (c : PortCall)
    (installed : s.cfg.itf = i) (legal : reasonsLegal s.cfg.reason = true)
    (mayEncode : ∀ v, (reply v).wellFormed = true) :
    s.whenInstalled i (State.callAndReply c reply) =
      match s.portAnswer c with
      | .ok v => (s.afterPort c).answered (reply v)
      | .err => (s.afterPort c).answered (.errGeneric s.cfg.reason.hwFailure) := by
  rw [s.whenInstalled_installed i _ installed, s.callAndReply_eq c reply legal fun v =>
    (Instr.payload_length_of_wellFormed (mayEncode v)).trans (by decide)]
  cases s.portAnswer c <;> rfl

/-- Settles O20: the request is one call of `dir_set`, answered Good. -/
theorem gpioDirSetCallsPort : Obligations.GpioDirSetCallsPort := by
  unfold Obligations.GpioDirSetCallsPort
  exact fun s pin dir installed legal =>
    congrArg Host.Outcome.next (State.portRequest_eq (.dirSet pin dir) installed legal fun _ => rfl)

/-- Settles O21: the request is one call of `dir_get`, answered with the byte read. -/
theorem gpioDirGetCallsPort : Obligations.GpioDirGetCallsPort := by
  unfold Obligations.GpioDirGetCallsPort
  exact fun s pin installed legal =>
    congrArg Host.Outcome.next (State.portRequest_eq (.dirGet pin) installed legal fun _ => rfl)

/-- Settles O22: the request is one call of `pin_write`, answered Good. -/
theorem gpioWriteCallsPort : Obligations.GpioWriteCallsPort := by
  unfold Obligations.GpioWriteCallsPort
  exact fun s pin value installed legal =>
    congrArg Host.Outcome.next (State.portRequest_eq (.pinWrite pin value) installed legal fun _ => rfl)

/-- Settles O23: the request is one call of `pin_read`, answered with the byte read. -/
theorem gpioReadCallsPort : Obligations.GpioReadCallsPort := by
  unfold Obligations.GpioReadCallsPort
  exact fun s pin installed legal =>
    congrArg Host.Outcome.next (State.portRequest_eq (.pinRead pin) installed legal fun _ => rfl)

/-- Settles O24: the request is one call of `set_duty` with the pattern of the request, answered Good. -/
theorem pwmSetDutyCallsPort : Obligations.PwmSetDutyCallsPort := by
  unfold Obligations.PwmSetDutyCallsPort
  exact fun s channel value installed legal =>
    congrArg Host.Outcome.next
      (State.portRequest_eq (.setDuty channel value) installed legal fun _ => rfl)

/-- Settles O25: the request is one call of `get_duty`, answered with the pattern read. -/
theorem pwmGetDutyCallsPort : Obligations.PwmGetDutyCallsPort := by
  unfold Obligations.PwmGetDutyCallsPort
  exact fun s channel installed legal =>
    congrArg Host.Outcome.next (State.portRequest_eq (.getDuty channel) installed legal fun _ => rfl)

end Sys2Proof.Machine
end

section
/-! Sequences of port calls (43_dispatcher.md R137; 10_state.md R28, R31): they stop at the first `Err`,
and so does a handler of a command table (R151). -/

namespace Sys2Proof.Machine

/-- Port calls with their answers, recorded. -/
theorem State.record_port (s : State) (log : List (PortCall × PortAnswer)) :
    s.record (log.map .port) =
      { s with
        portTape := s.portTape.drop log.length
        draws := s.draws + log.length
        out := s.out ++ log.map .port } := by
  simp [State.record]

/-- Either all calls are made and answered `Ok`, or the calls up to the first one answered `Err` are. -/
theorem State.portAll_stops (cs : List PortCall) (s : State) :
    (∃ vs : List PortVal, vs.length = cs.length ∧
      s.portAll cs = (some vs, s.record ((cs.zip (vs.map PortAnswer.ok)).map .port))) ∨
    ∃ (k : Nat) (vs : List PortVal) (c : PortCall), cs[k]? = some c ∧ vs.length = k ∧
      s.portAll cs =
        (none,
          s.record (((cs.take k).zip (vs.map PortAnswer.ok) ++ [(c, PortAnswer.err)]).map .port)) := by
  induction cs generalizing s with
  | nil => exact .inl ⟨[], rfl, by simp [State.portAll]⟩
  | cons c rest ih =>
    cases ha : s.portAnswer c with
    | err =>
      refine .inr ⟨0, [], c, rfl, rfl, ?_⟩
      simp [State.portAll, ha, State.afterPort_eq_record]
    | ok v =>
      have called : s.afterPort c = s.record [.port (c, .ok v)] := by
        rw [State.afterPort_eq_record, ha]
      obtain ⟨vs, length, all⟩ | ⟨k, vs, c', atK, length, stopped⟩ :=
        ih (s.record [.port (c, .ok v)])
      · refine .inl ⟨v :: vs, by simp [length], ?_⟩
        simp [State.portAll, ha, called, all]
      · refine .inr ⟨k + 1, v :: vs, c', atK, by simp [length], ?_⟩
        simp [State.portAll, ha, called, stopped]

theorem State.portAll_cfg {cs : List PortCall} {s s' : State} {r : Option (List PortVal)}
    (h : s.portAll cs = (r, s')) : s'.cfg = s.cfg := by
  obtain ⟨k, log, -, -, after, -⟩ := s.portAll_cases cs
  simpa [h] using congrArg State.cfg after

/-- Settles O28: both parts record the calls made, of which only the last can have failed. -/
theorem portCallsStopAtFirstErr : Obligations.PortCallsStopAtFirstErr := by
  unfold Obligations.PortCallsStopAtFirstErr
  refine ⟨fun cs s => ?sequence, fun itf h env s t legal result => ?handler⟩
  case sequence =>
    obtain ⟨vs, length, all⟩ | ⟨k, vs, c, atK, length, stopped⟩ := s.portAll_stops cs
    · exact .inl ⟨vs, length, by simp [all, State.record_port, length]⟩
    · have inside : k < cs.length := (List.getElem?_eq_some_iff.1 atK).1
      have made : ((cs.take k).zip (vs.map PortAnswer.ok) ++ [(c, PortAnswer.err)]).length = k + 1 := by
        simp [length, inside.le]
      exact .inr ⟨k, vs, c, atK, length, by rw [stopped, State.record_port, made]⟩
  case handler =>
    obtain ⟨log, events, f, ran, calls, silent, own, stops, -⟩ := s.runHandler_cases itf h env
    rw [ran, State.sendFrame_eq] at result
    refine ⟨log, ?_, ?_, ?_, fun e he => ?_, fun k c hk => ?_⟩
    · simp [result, State.portLog, calls]
    · simp [result]
    · simp [result]
    · obtain ⟨op, args, res, isTable⟩ := own e he
      rw [isTable]
      rfl
    · obtain ⟨last, rfl⟩ := stops k c hk
      have fits := Failure.response_fits .hwFailure _ legal
      have sent := sentEvent_of_fits (f := (Instr.errGeneric s.cfg.reason.hwFailure).toFrame) fits
      have nothingBefore := List.filterMap_eq_nil_iff.2 silent
      exact ⟨last, by simp [result, sent, State.tx, nothingBefore, encode]⟩

end Sys2Proof.Machine
end

section
/-! The frequency requests (43_dispatcher.md R149, R150; 44_frequency_quantizer.md R167, R169). -/

namespace Sys2Proof.Machine

/-! ## Targets -/

theorem frequencyTarget_of_fin {value : F32} {f : Rat} (h : f32Value value = .fin f) :
    frequencyTarget value = if f ≤ 0 then none else some f := by
  simp only [frequencyTarget, h]

theorem frequencyTarget_of_pos {value : F32} {f : Rat} (h : f32Value value = .fin f) (pos : 0 < f) :
    frequencyTarget value = some f := by
  rw [frequencyTarget_of_fin h, if_neg (not_le.2 pos)]

/-- A pattern that is no positive number is no target. -/
theorem frequencyTarget_eq_none {value : F32}
    (h : f32Value value = .nan ∨ (∃ neg, f32Value value = .inf neg) ∨
      ∃ f, f32Value value = .fin f ∧ f ≤ 0) : frequencyTarget value = none := by
  obtain nan | ⟨neg, inf⟩ | ⟨f, fin, nonpos⟩ := h
  · simp only [frequencyTarget, nan]
  · simp only [frequencyTarget, inf]
  · rw [frequencyTarget_of_fin fin, if_pos nonpos]

/-! ## The handlers -/

/-- A failure that reports nothing is its response. -/
theorem State.fail_of_silent {s : State} (legal : reasonsLegal s.cfg.reason = true) (e : Failure)
    (silent : e.events = []) : s.fail e = s.answered (e.response s.cfg.reason) := by
  have nothing : s.emit (e.events.map .diag) = s := by simp [silent, State.emit]
  rw [s.fail_eq e legal, nothing]

/-- The same after calls, which keep the configuration registers. -/
theorem State.fail_of_sameCfg {s s' : State} (sameCfg : s'.cfg = s.cfg)
    (legal : reasonsLegal s.cfg.reason = true) (e : Failure) (silent : e.events = []) :
    s'.fail e = s'.answered (e.response s.cfg.reason) := by
  rw [State.fail_of_silent (sameCfg ▸ legal) e silent, sameCfg]

section
variable {s s' : State} {channel : Byte} {value : F32} {f : Rat} {vs : List PortVal}

theorem exec_pwmSetFrequency (installed : s.cfg.itf = .pwm) :
    exec (.pwmSetFrequency channel value) s = .next (s.setFrequency channel value) :=
  congrArg Host.Outcome.next (s.whenInstalled_installed .pwm _ installed)

theorem exec_pwmGetFrequency (installed : s.cfg.itf = .pwm) :
    exec (.pwmGetFrequency channel) s = .next (s.getFrequency channel) :=
  congrArg Host.Outcome.next (s.whenInstalled_installed .pwm _ installed)

theorem State.setFrequency_of_no_target (legal : reasonsLegal s.cfg.reason = true)
    (bad : frequencyTarget value = none) :
    s.setFrequency channel value = s.answered (.errInvalidArgs s.cfg.reason.badFrequency) := by
  simp only [State.setFrequency, bad]
  exact State.fail_of_silent legal .badFrequency rfl

theorem State.setFrequency_of_committed (target : frequencyTarget value = some f)
    (committed : (s.emitDiag (quantizerReport (quantize s.cfg.fsys f))).portAll
      (commitCalls channel (quantize s.cfg.fsys f)) = (some vs, s')) :
    s.setFrequency channel value =
      s'.answered (.respPwmFreq channel (rne32 (quantize s.cfg.fsys f).achievedFrequency)) := by
  simp only [State.setFrequency, target, committed]
  exact State.send_of_wellFormed rfl s'

theorem State.setFrequency_of_failed (legal : reasonsLegal s.cfg.reason = true)
    (target : frequencyTarget value = some f)
    (failed : (s.emitDiag (quantizerReport (quantize s.cfg.fsys f))).portAll
      (commitCalls channel (quantize s.cfg.fsys f)) = (none, s')) :
    s.setFrequency channel value = s'.answered (.errGeneric s.cfg.reason.hwFailure) := by
  have sameCfg : s'.cfg = s.cfg := (State.portAll_cfg failed).trans (State.emitDiag_cfg ..)
  simp only [State.setFrequency, target, failed]
  exact State.fail_of_sameCfg sameCfg legal .hwFailure rfl

theorem State.getFrequency_of_failed (legal : reasonsLegal s.cfg.reason = true)
    (failed : s.portAll (readCalls channel) = (none, s')) :
    s.getFrequency channel = s'.answered (.errGeneric s.cfg.reason.hwFailure) := by
  have sameCfg : s'.cfg = s.cfg := State.portAll_cfg failed
  simp only [State.getFrequency, failed]
  exact State.fail_of_sameCfg sameCfg legal .hwFailure rfl

section
variable {top di df pc : PortVal}
  (read : s.portAll (readCalls channel) = (some [top, di, df, pc], s'))
include read

/-- A divider that gives no period is refused (R150). -/
theorem State.getFrequency_of_bad_divider (legal : reasonsLegal s.cfg.reason = true)
    (bad : di.num = 0 ∨ 15 < df.num.toNat) :
    s.getFrequency channel = s'.answered (.errGeneric s.cfg.reason.hwValueRange) := by
  have sameCfg : s'.cfg = s.cfg := State.portAll_cfg read
  simp only [State.getFrequency, read, if_pos bad]
  exact State.fail_of_sameCfg sameCfg legal .hwValueRange rfl

theorem State.getFrequency_of_registers (good : ¬ (di.num = 0 ∨ 15 < df.num.toNat)) :
    s.getFrequency channel = s'.answered (.respPwmFreq channel
      (rne32 (pwmFrequency s.cfg.fsys top.num.toNat (pc.num.getLsbD 0) di.num.toNat
        df.num.toNat))) := by
  simp only [State.getFrequency, read, if_neg good]
  exact State.send_of_wellFormed rfl s'

end

end

/-- Settles O26: what is no target is refused before anything is put out; for a target, the commit's
calls decide the response. -/
theorem pwmSetFrequencyCommits : Obligations.PwmSetFrequencyCommits := by
  unfold Obligations.PwmSetFrequencyCommits
  intro s channel value installed legal
  rw [exec_pwmSetFrequency installed]
  refine ⟨fun bad => ?_, fun f q isFin pos hq => congrArg Host.Outcome.next ?_⟩
  · rw [State.setFrequency_of_no_target legal (frequencyTarget_eq_none bad)]
  · subst hq
    have target := frequencyTarget_of_pos isFin pos
    rcases commit : (s.emitDiag (quantizerReport (quantize s.cfg.fsys f))).portAll
      (commitCalls channel (quantize s.cfg.fsys f)) with ⟨_ | vs, s'⟩
    · rw [State.setFrequency_of_failed legal target commit]
      simp only [quantizerReport, commitCalls] at commit
      simp only [commit]
    · rw [State.setFrequency_of_committed target commit]
      simp only [quantizerReport, commitCalls] at commit
      simp only [commit]

/-- Settles O27: the four reads decide, then the range of the divider read. -/
theorem pwmGetFrequencyReadsBack : Obligations.PwmGetFrequencyReadsBack := by
  unfold Obligations.PwmGetFrequencyReadsBack
  intro s s' channel r installed legal read
  rw [exec_pwmGetFrequency installed]
  refine ⟨?_, ?_⟩
  · rintro rfl
    rw [State.getFrequency_of_failed legal read]
  · rintro top di df pc rfl
    by_cases bad : di.num = 0 ∨ 15 < df.num.toNat
    · rw [State.getFrequency_of_bad_divider read legal bad, if_pos bad]
    · rw [State.getFrequency_of_registers read bad, if_neg bad]

end Sys2Proof.Machine
end

section
/-! A frequency set and read back (44_frequency_quantizer.md R158 to R168): the registers the quantizer
chooses fit the port's types, so a port that keeps them gives them back unchanged. -/

namespace Sys2Proof

/-- The registers of a quantizer run are in their ranges, and its achieved frequency is theirs (R161 to
R164). -/
theorem quantize_registers (fsys : Nat) (f : Rat) :
    (quantize fsys f).top < 2 ^ 16 ∧
      (1 ≤ (quantize fsys f).divInt ∧ (quantize fsys f).divInt < 2 ^ 8) ∧
      (quantize fsys f).divFrac ≤ 15 ∧
      (quantize fsys f).achievedFrequency =
        pwmFrequency fsys (quantize fsys f).top (quantize fsys f).pc (quantize fsys f).divInt
          (quantize fsys f).divFrac := by
  obtain ⟨-, -, found, -⟩ :=
    search_cases (coarse fsys f) (Config.iterMax - 1) 1 0 Config.sMax none
  obtain ⟨point, best⟩ := found.resolve_right nofun
  refine ⟨?top, ?divInt, ?divFrac, ?frequency⟩
  case top =>
    simp only [quantize, coarse, clampInt, Config.topMax]
    omega
  case divInt =>
    simp only [quantize, coarse, Config.diWide]
    split <;> decide
  case divFrac =>
    simp only [quantize, best, candidate]
    omega
  case frequency =>
    simp only [quantize, best]
    rfl

end Sys2Proof

namespace Sys2Proof.Machine

/-! ## A port whose answers stand on the tape -/

/-- The value of an `Ok` cut to the type of its call (10_state.md R31). -/
def fitVal (c : PortCall) (v : PortVal) : PortVal :=
  ⟨BitVec.ofNat 32 (v.num.toNat % 2 ^ resBits (callRes c)), v.data.take (resBytes (callRes c))⟩

theorem fitAnswer_ok (c : PortCall) (v : PortVal) : fitAnswer c (.ok v) = .ok (fitVal c v) := rfl

theorem resBits_le (t : ResTy) : resBits t ≤ 32 := by cases t <;> simp [resBits]

/-- A number of the call's type is not cut. -/
theorem fitVal_num_toNat {c : PortCall} {n : Nat} (inType : n < 2 ^ resBits (callRes c)) :
    (fitVal c ⟨BitVec.ofNat 32 n, []⟩).num.toNat = n := by
  have inWord : n < 2 ^ 32 :=
    inType.trans_le (Nat.pow_le_pow_right (by decide) (resBits_le (callRes c)))
  simp only [fitVal, BitVec.toNat_ofNat, Nat.mod_eq_of_lt inWord, Nat.mod_eq_of_lt inType]

/-- Calls whose answers stand on the tape, each `Ok`, are all made. -/
theorem State.portAll_of_tape {cs : List PortCall} {vs : List PortVal} {rest : List PortAnswer}
    (length : vs.length = cs.length) {s : State} (tape : s.portTape = vs.map .ok ++ rest) :
    ∃ log : List (PortCall × PortAnswer), log.length = cs.length ∧
      s.portAll cs = (some (List.zipWith fitVal cs vs), s.record (log.map .port)) := by
  induction cs generalizing s vs with
  | nil =>
    obtain rfl := List.length_eq_zero_iff.1 length
    exact ⟨[], rfl, by simp [State.portAll]⟩
  | cons c cs ih =>
    obtain ⟨v, vs, rfl⟩ := List.exists_cons_of_length_eq_add_one length
    have answer : s.portAnswer c = .ok (fitVal c v) := by
      simp only [State.portAnswer, tape, List.map_cons, List.cons_append, fitAnswer_ok]
    have called : s.afterPort c = s.record [.port (c, .ok (fitVal c v))] := by
      rw [State.afterPort_eq_record, answer]
    obtain ⟨log, logLength, all⟩ := ih (vs := vs) (by simpa using length)
      (s := s.record [.port (c, .ok (fitVal c v))]) (by simp [tape])
    refine ⟨(c, .ok (fitVal c v)) :: log, by simp [logLength], ?_⟩
    simp [State.portAll, answer, called, all]

/-! ## The two requests -/

section
variable {s : State} {channel : Byte} {rest : List PortAnswer}

/-- A commit that the port answers `Ok` four times completes (R149, R167). -/
theorem State.setFrequency_of_tape {value : F32} {f : Rat} {a b c d : PortVal}
    (target : frequencyTarget value = some f) (tape : s.portTape = [a, b, c, d].map .ok ++ rest) :
    ∃ s' : State, s'.cfg = s.cfg ∧ s'.tx = s.tx ∧ s'.portTape = rest ∧
      s.setFrequency channel value =
        s'.answered (.respPwmFreq channel (rne32 (quantize s.cfg.fsys f).achievedFrequency)) := by
  obtain ⟨log, length, committed⟩ := State.portAll_of_tape
    (cs := commitCalls channel (quantize s.cfg.fsys f)) (vs := [a, b, c, d]) rfl
    (s := s.emitDiag (quantizerReport (quantize s.cfg.fsys f))) tape
  have four : log.length = 4 := length
  refine ⟨(s.emitDiag _).record (log.map .port), rfl, ?_, ?_,
    State.setFrequency_of_committed target committed⟩
  · simp
  · simp [four, tape]

/-- A port that holds the registers of a quantizer run reads back that run's frequency (R150, R158). -/
theorem State.getFrequency_of_tape {q : Quant} {f : Rat} (hq : q = quantize s.cfg.fsys f)
    (tape : s.portTape = .okNum (BitVec.ofNat 32 q.top) :: .okNum (BitVec.ofNat 32 q.divInt) ::
      .okNum (BitVec.ofNat 32 q.divFrac) :: .okNum (if q.pc then 1 else 0) :: rest) :
    ∃ s' : State, s'.tx = s.tx ∧ s'.portTape = rest ∧
      s.getFrequency channel = s'.answered (.respPwmFreq channel (rne32 q.achievedFrequency)) := by
  obtain ⟨log, length, read⟩ := State.portAll_of_tape (cs := readCalls channel)
    (vs := [⟨BitVec.ofNat 32 q.top, []⟩, ⟨BitVec.ofNat 32 q.divInt, []⟩,
      ⟨BitVec.ofNat 32 q.divFrac, []⟩, ⟨if q.pc then 1 else 0, []⟩]) rfl tape
  obtain ⟨topRange, ⟨one_le_divInt, divIntRange⟩, divFracRange, frequency⟩ :=
    quantize_registers s.cfg.fsys f
  rw [← hq] at topRange one_le_divInt divIntRange divFracRange frequency
  have four : log.length = 4 := length
  have top := fitVal_num_toNat (c := .getTop channel) topRange
  have divInt := fitVal_num_toNat (c := .getDivInt channel) divIntRange
  have divFrac := fitVal_num_toNat (c := .getDivFrac channel) (show q.divFrac < 2 ^ 8 by omega)
  have pc : (fitVal (.getPhaseCorrect channel) ⟨if q.pc then 1 else 0, []⟩).num.getLsbD 0 = q.pc := by
    cases q.pc <;> simp [fitVal, callRes, resBits]
  have good : ¬ ((fitVal (.getDivInt channel) ⟨BitVec.ofNat 32 q.divInt, []⟩).num = 0 ∨
      15 < (fitVal (.getDivFrac channel) ⟨BitVec.ofNat 32 q.divFrac, []⟩).num.toNat) := by
    rintro (zero | large)
    · have : 0 = q.divInt := by simpa [zero] using divInt
      omega
    · omega
  refine ⟨s.record (log.map .port), ?_, ?_, ?_⟩
  · simp
  · simp [four, tape]
  · rw [State.getFrequency_of_registers read good, top, divInt, divFrac, pc, ← frequency]

end

/-- Settles O36: the commit uses four answers of the tape, and the reads find the registers behind
them. -/
theorem setThenGetReportsTheSame : Obligations.SetThenGetReportsTheSame := by
  unfold Obligations.SetThenGetReportsTheSame
  intro s channel value f q a b c d rest installed isFin pos hq tape
  obtain ⟨s₁, cfg, tx, tapeLeft, set⟩ := State.setFrequency_of_tape (channel := channel)
    (frequencyTarget_of_pos isFin pos) tape
  rw [← hq] at set
  have hq' : q = quantize (s.setFrequency channel value).cfg.fsys f := by
    rw [set, State.answered_cfg, cfg, hq]
  obtain ⟨s₂, tx', tapeLeft', get⟩ := State.getFrequency_of_tape (channel := channel) hq'
    (by rw [set]; exact tapeLeft)
  have setTx : (s.setFrequency channel value).tx =
      s.tx ++ [wire (encode (.respPwmFreq channel (rne32 q.achievedFrequency)))] := by
    rw [set, State.answered_tx, tx]
  refine ⟨_, _, _, rfl, exec_pwmSetFrequency installed, setTx, exec_pwmGetFrequency ?_, ?_, ?_⟩
  · rw [set, State.answered_cfg, cfg, installed]
  · rw [get, State.answered_tx, tx', setTx, List.append_assoc, List.singleton_append]
  · rw [get, State.answered_portTape, tapeLeft']

end Sys2Proof.Machine
end

section
/-! Routing (43_dispatcher.md R136, R151; 60_exceptions.md R177, R178): what `process_frame` does with a
frame, by the category of its opcode. -/

namespace Sys2Proof

/-! ## Short payloads -/

theorem Instr.minPayload_le (i : Instr) : i.op.minPayload ≤ i.payload.length := by
  cases i <;> simp [Instr.op, Op.minPayload, Instr.payload, Id8.toBytes]

/-- A payload shorter than a row's layout gives none of its messages (R107). -/
theorem Op.decodeArgs_of_short {o : Op} {payload : Bytes} (short : payload.length < o.minPayload) :
    o.decodeArgs (ArgParser.new payload) = none := by
  refine Option.eq_none_iff_forall_ne_some.2 fun i read => ?_
  obtain ⟨rest, parts⟩ := Op.payload_of_decodeArgs read
  have enough := i.minPayload_le
  rw [Op.op_of_decodeArgs read] at enough
  rw [parts, List.length_append] at short
  omega

end Sys2Proof

namespace Sys2Proof.Machine

section
variable {s : State} {f : Frame}

/-- A frame whose arguments are read runs the meaning of its message. -/
theorem processFrame_of_read {o : Op} {i : Instr} (row : Op.ofCode f.opcode = some o)
    (read : o.decodeArgs (ArgParser.new f.payload) = some i) : processFrame f s = exec i s := by
  simp only [processFrame, Frame.message, row, read]

theorem State.refuseArguments_of_served {o : Op}
    (served : o.requestSet = some .generic ∨ o.requestSet = some (.interface s.cfg.itf)) :
    s.refuseArguments o.code = s.fail .invalidArgument := by
  obtain generic | installed := served
  · simp only [State.refuseArguments, (category_code_requestGeneric s.cfg o).2 generic]
  · simp only [State.refuseArguments, (category_code_requestPerInterface s.cfg o _).2 installed,
      ne_eq, not_true_eq_false, if_false]

/-- A served request whose arguments are not read is refused (R178). -/
theorem processFrame_of_unreadable {o : Op} (row : Op.ofCode f.opcode = some o)
    (served : o.requestSet = some .generic ∨ o.requestSet = some (.interface s.cfg.itf))
    (unreadable : o.decodeArgs (ArgParser.new f.payload) = none) :
    processFrame f s = .next (s.fail .invalidArgument) := by
  simp only [processFrame, Frame.message, row, unreadable]
  rw [← Op.ofCode_some row, State.refuseArguments_of_served served]

theorem processFrame_of_unserved_row {o : Op} (row : Op.ofCode f.opcode = some o)
    (unserved : ¬ (o.requestSet = some .generic ∨ o.requestSet = some (.interface s.cfg.itf))) :
    processFrame f s = .next (s.answered .errUnknownCode) := by
  obtain ⟨generic, installed⟩ := not_or.1 unserved
  obtain ⟨k, hk, isGeneric, isInstalled⟩ := category_code s.cfg o
  rw [Op.ofCode_some row] at hk
  exact processFrame_of_unserved (fun h => generic (isGeneric.1 h))
    (fun h => installed ((isInstalled _).1 h)) hk

theorem processFrame_of_no_row (noRow : Op.ofCode f.opcode = none) :
    processFrame f s = .next (s.runTable f) := by
  simp only [processFrame, Frame.message, noRow]

end

/-- Settles O45: a payload too short gives no message of its row, and the request set of the row
decides between the two refusals. -/
theorem shortArgumentsAreRefused : Obligations.ShortArgumentsAreRefused := by
  unfold Obligations.ShortArgumentsAreRefused
  intro f s o row short legal
  by_cases served : o.requestSet = some .generic ∨ o.requestSet = some (.interface s.cfg.itf)
  · rw [processFrame_of_unreadable row served (Op.decodeArgs_of_short short), if_pos served]
    exact congrArg Host.Outcome.next (State.fail_of_silent legal .invalidArgument rfl)
  · rw [processFrame_of_unserved_row row served, if_neg served]

/-! ## The two shapes of `process_frame` agree -/

section
variable {s : State} {f : Frame}

/-- A category that is not served is refused, whatever the frame carries. -/
theorem processFrame_of_refused
    (generic : category s.cfg f.opcode ≠ some .requestGeneric)
    (installed : category s.cfg f.opcode ≠ some (.requestPerInterface s.cfg.itf)) :
    processFrame f s = .next (s.fail .notARequest) := by
  rw [s.fail_notARequest]
  cases hk : category s.cfg f.opcode with
  | some k =>
    rw [hk] at generic installed
    exact processFrame_of_unserved (fun h => generic (congrArg some h))
      (fun h => installed (congrArg some h)) hk
  | none =>
    have noRow : Op.ofCode f.opcode = none := by
      refine Option.eq_none_iff_forall_ne_some.2 fun o row => ?_
      obtain ⟨k, hk', -⟩ := category_code s.cfg o
      rw [Op.ofCode_some row, hk] at hk'
      cases hk'
    rw [processFrame_of_no_row noRow]
    simp only [State.runTable, hk, s.fail_notARequest]

/-- A frame of the generic requests goes through their decoder. -/
theorem processFrame_of_generic (hk : category s.cfg f.opcode = some .requestGeneric) :
    processFrame f s = routeByCategory f s := by
  simp only [routeByCategory, hk, requestFromFrame]
  cases row : Op.ofCode f.opcode with
  | none =>
    rw [processFrame_of_no_row row]
    simp only [State.runTable, hk]
  | some o =>
    rw [← Op.ofCode_some row] at hk
    have generic := (category_code_requestGeneric s.cfg o).1 hk
    simp only [if_pos generic]
    cases read : o.decodeArgs (ArgParser.new f.payload) with
    | none => exact processFrame_of_unreadable row (.inl generic) read
    | some i => exact processFrame_of_read row read

/-- A frame of the installed interface goes through its decoder, rows and command table. -/
theorem processFrame_of_installed
    (hk : category s.cfg f.opcode = some (.requestPerInterface s.cfg.itf)) :
    processFrame f s = routeByCategory f s := by
  simp only [routeByCategory, hk, requestFromFrame, ne_eq, not_true_eq_false, if_false]
  cases row : Op.ofCode f.opcode with
  | none =>
    rw [processFrame_of_no_row row]
    simp only [State.runTable, hk, ne_eq, not_true_eq_false, if_false]
    rcases tableRequest (cmdTable s.cfg s.cfg.itf) f with (_ | _) | ⟨e, fields⟩ <;> rfl
  | some o =>
    rw [← Op.ofCode_some row] at hk
    have installed := (category_code_requestPerInterface s.cfg o _).1 hk
    simp only [if_pos installed]
    cases read : o.decodeArgs (ArgParser.new f.payload) with
    | none => exact processFrame_of_unreadable row (.inr installed) read
    | some i => exact processFrame_of_read row read

end

/-- Settles O42: the generic requests and those of the installed interface go through the decoder of
their set; every other category is refused. -/
theorem routingFollowsCategories : Obligations.RoutingFollowsCategories := by
  unfold Obligations.RoutingFollowsCategories
  intro f s
  by_cases generic : category s.cfg f.opcode = some .requestGeneric
  · exact processFrame_of_generic generic
  by_cases installed : category s.cfg f.opcode = some (.requestPerInterface s.cfg.itf)
  · exact processFrame_of_installed installed
  rw [processFrame_of_refused generic installed, routeByCategory]
  rcases hk : category s.cfg f.opcode with _ | _ | i | _ | _ | _
  case some.requestGeneric => exact absurd hk generic
  case some.requestPerInterface =>
    have other : i ≠ s.cfg.itf := fun same => installed (same ▸ hk)
    simp only [if_pos other, s.fail_notARequest, s.fail_notThisInterface]
  all_goals rfl

/-! ## Requests of a command table -/

/-- Settles O47: the opcode of an entry is in the namespace of its interface and is that of no row and
of no other entry. -/
theorem tableRequestsAreServed : Obligations.TableRequestsAreServed := by
  unfold Obligations.TableRequestsAreServed
  intro s e f legal he sameOpcode
  obtain ⟨req, resp, table⟩ := cfgLegal_cmdTable legal s.cfg.itf
  obtain ⟨distinct, -⟩ := tableLegal_distinct table
  have found : ((cmdTable s.cfg s.cfg.itf).requests.find? fun x => x.opcode == f.opcode) = some e := by
    rw [sameOpcode]
    exact find?_key_of_nodup distinct he
  have hk := category_of_request legal he
  rw [← sameOpcode] at hk
  rw [processFrame_of_no_row (sameOpcode ▸ ofCode_of_mem_requests legal he)]
  simp only [State.runTable, hk, ne_eq, not_true_eq_false, if_false, tableRequest, found]
  cases (ArgParser.new f.payload).consumeLayout e.layout with
  | none =>
    exact congrArg Host.Outcome.next
      (State.fail_of_silent (cfgLegal_reason legal) .invalidArgument rfl)
  | some fields => rfl

/-! ## One response -/

/-- The message of a request leaves behind all else it puts out, and is all it adds to TX. -/
theorem State.AnsweredOnce.tx_frame {s t : State} (h : s.AnsweredOnce t) :
    ∃ (g : Frame) (before : List OutEvent), g.payload.length ≤ Config.payloadCap ∧
      t.tx = s.tx ++ [wire g.toBytes] ∧ t.out = s.out ++ before ++ [.tx (wire g.toBytes)] ∧
      ∀ e ∈ before, e.message? = none := by
  obtain ⟨before, g, fits, out, silent⟩ := h
  have tx : t.tx = s.tx ++ [wire g.toBytes] := by
    simp [State.tx, out, List.filterMap_eq_nil_iff.2 silent]
  exact ⟨g, before, fits, tx, out, silent⟩

/-- Settles O43: every arm of `process_frame` ends in one response that fits. -/
theorem everyFrameGetsOneResponse : Obligations.EveryFrameGetsOneResponse := by
  unfold Obligations.EveryFrameGetsOneResponse
  intro f s legal _
  obtain ⟨t, ran⟩ := processFrame_next f s
  obtain ⟨g, before, fits, tx, out, silent⟩ := (processFrame_answeredOnce legal ran).tx_frame
  exact ⟨t, g, ran, fits, tx, before, out, silent⟩

end Sys2Proof.Machine
end

section
/-! One step of the control loop on the bytes pending (43_dispatcher.md R152, R154, R155;
70_reset_and_hazards.md R197). -/

namespace Sys2Proof.Machine

/-- Settles O40: a completed frame is handled as the message it decodes to. -/
theorem stepRunsDecodedMessage : Obligations.StepRunsDecodedMessage := by
  unfold Obligations.StepRunsDecodedMessage
  intro s n d i noReset pending fed decodes
  obtain ⟨t, ran⟩ := exec_next i (s.setDec d)
  exact ⟨t, ran, step_of_frameComplete noReset pending fed
    ((handleFrame_of_decode decodes _).trans ran)⟩

/-! ## Transport errors -/

/-- Only a byte can fail. -/
theorem input_ne_nil_of_decFeed_err {cap : Nat} {d d' : Dec} {input : Bytes} {e : TransportErr}
    {k : Nat} (h : decFeed cap d input = (.err e k, d')) : input ≠ [] := by
  rintro rfl
  cases h

/-- Settles O46: the round on a failing feed reports it, resets the decoder and moves the cursor behind
the byte that failed. -/
theorem transportErrorsDropTheFrame : Obligations.TransportErrorsDropTheFrame := by
  unfold Obligations.TransportErrorsDropTheFrame
  refine ⟨fun cap acc rest => rfl, fun s k d e noReset failed => ?_⟩
  have round := step_of_pending noReset (input_ne_nil_of_decFeed_err failed)
  rw [State.pending, failed] at round
  exact round

/-! ## One message per completed frame -/

theorem State.advance_out (s : State) (n : Nat) : (s.advance n).out = s.out := by
  obtain ⟨-, h⟩ | ⟨-, h⟩ := s.advance_cases n <;> rw [h]

theorem State.AnsweredOnce.of_out {s s' t t' : State} (h : s.AnsweredOnce t) (before : s'.out = s.out)
    (after : t'.out = t.out) : s'.AnsweredOnce t' := by
  rw [State.AnsweredOnce, before, after]
  exact h

/-- A step that completes a frame puts out its response, behind all else of the step. -/
theorem step_answeredOnce {s t : State} {n : Nat} {d : Dec}
    (legal : cfgLegal s.cfg.toCfgParams = true) (noReset : s.resetReq = .none)
    (pending : s.pending ≠ []) (fed : decFeed Config.decCap s.dec s.pending = (.ok n true, d))
    (h : step s = .next t) : s.AnsweredOnce t := by
  obtain ⟨u, handled⟩ := handleFrame_next d.acc (s.setDec d)
  have result := step_of_frameComplete noReset pending fed handled
  obtain rfl := Host.Outcome.next.inj (h.symm.trans result)
  have answered := handleFrame_answeredOnce (s := s.setDec d) legal handled
  exact answered.of_out rfl (State.advance_out _ n)

/-- A step that completes no frame puts out nothing, or the report of a transport error. -/
theorem loopStep_out_of_no_frame {s t : State}
    (noFrame : ∀ n d, decFeed Config.decCap s.dec s.pending ≠ (.ok n true, d))
    (h : loopStep s = .next t) : ∃ reports : List DiagEvent, t.out = s.out ++ reports.map .diag := by
  rcases loopStep_cases s with ⟨-, -, hs⟩ | ⟨c, rest, -, -, hs⟩ | ⟨n, d, -, -, hs⟩ |
    ⟨n, d, -, -, fed, -, -⟩ | ⟨e, k, d, -, -, hs⟩
  case inr.inr.inr.inl => exact absurd fed (noFrame n d)
  all_goals obtain rfl := Host.Outcome.next.inj (hs.symm.trans h)
  case inl => exact ⟨[], (List.append_nil _).symm⟩
  case inr.inl => exact ⟨[], (List.append_nil _).symm⟩
  case inr.inr.inl => exact ⟨[], by rw [State.advance_out, List.map_nil, List.append_nil]; rfl⟩
  case inr.inr.inr.inr => exact ⟨[.transportError e k], State.advance_out _ _⟩

/-- Settles O48: a step on a completed frame is answered once, and any other step reports at most a
transport error. -/
theorem oneMessagePerCompletedFrame : Obligations.OneMessagePerCompletedFrame := by
  unfold Obligations.OneMessagePerCompletedFrame
  intro s t inv noReset h
  constructor
  · rintro ⟨n, d, pending, fed⟩
    exact (step_answeredOnce inv.cfg noReset pending fed h).tx_frame
  · intro noFrame
    rw [step_of_noReset s noReset] at h
    obtain ⟨reports, out⟩ := loopStep_out_of_no_frame noFrame h
    exact ⟨by simp [State.tx_of_out out], by simp [State.portLog_of_out out]⟩

end Sys2Proof.Machine
end

section
/-! What a quantizer run returns (44_frequency_quantizer.md R158 to R166, R171). -/

namespace Sys2Proof

theorem ratAbs_eq_abs (q : Rat) : ratAbs q = |q| := by
  by_cases negative : q < 0
  · rw [ratAbs, if_pos negative, abs_of_neg negative]
  · rw [ratAbs, if_neg negative, abs_of_nonneg (not_lt.1 negative)]

/-- The shortest period of registers in their ranges (R158). -/
theorem one_le_pwmPeriod {top di df : Nat} (pc : Bool) (one_le_di : 1 ≤ di) :
    1 ≤ pwmPeriod top pc di df := by
  have counts : (1 : Rat) ≤ top + 1 := by exact_mod_cast Nat.le_add_left 1 top
  have slopes : (1 : Rat) ≤ if pc then 2 else 1 := by cases pc <;> norm_num
  have divider : (1 : Rat) ≤ di + df / 16 :=
    le_add_of_le_of_nonneg (by exact_mod_cast one_le_di) (by positivity)
  exact one_le_mul_of_one_le_of_one_le (one_le_mul_of_one_le_of_one_le counts slopes) divider

theorem candidate_err (c : Coarse) (s : Int) :
    (candidate c s).err = |c.target - (candidate c s).realF| :=
  ratAbs_eq_abs _

section
variable (fsys : Nat) (f : Rat)

/-! ## The coarse settings (R160 to R162) -/

theorem quantize_periodWanted : (quantize fsys f).periodWanted = fsys / f := rfl

/-- `TOP` is clamped on the integers, and the clamped value is a natural number (R161). -/
theorem quantize_top :
    ((quantize fsys f).top : Int) = min (max ⌊(fsys : Rat) / f / 2⌋ 0) 65535 :=
  Int.toNat_of_nonneg (le_min (le_max_right _ _) (by decide))

theorem quantize_divInt : (quantize fsys f).divInt = if f < 1000 then 255 else 1 := rfl

theorem quantize_pc : (quantize fsys f).pc = if 62500000 < f then false else true := rfl

/-! ## The search (R163 to R165) -/

/-- The best candidate of a quantizer run (R164). -/
def quantizeBest : Cand :=
  (search (coarse fsys f) (Config.iterMax - 1) 1 0 Config.sMax none).2

theorem quantize_achievedFrequency :
    (quantize fsys f).achievedFrequency = (quantizeBest fsys f).realF := rfl

/-- The search starts without a best candidate, so the one it returns is its own. -/
theorem quantizeBest_eq_candidate :
    ∃ point, quantizeBest fsys f = candidate (coarse fsys f) point := by
  obtain ⟨-, -, found, -⟩ :=
    search_cases (coarse fsys f) (Config.iterMax - 1) 1 0 Config.sMax none
  exact found.resolve_right nofun

/-- The error the search minimizes is the distance of the achieved frequency from the target. -/
theorem quantizeBest_err :
    (quantizeBest fsys f).err = |f - (quantize fsys f).achievedFrequency| := by
  obtain ⟨point, best⟩ := quantizeBest_eq_candidate fsys f
  rw [quantize_achievedFrequency, best]
  exact candidate_err _ point

theorem quantize_iterationsUsed :
    1 ≤ (quantize fsys f).iterationsUsed ∧ (quantize fsys f).iterationsUsed ≤ 20 := by
  obtain ⟨first, last, -⟩ :=
    search_cases (coarse fsys f) (Config.iterMax - 1) 1 0 Config.sMax none
  exact ⟨first, last⟩

theorem quantize_achievedPeriod :
    (quantize fsys f).achievedPeriod =
      pwmPeriod (quantize fsys f).top (quantize fsys f).pc (quantize fsys f).divInt
        (quantize fsys f).divFrac := by
  obtain ⟨point, best⟩ := quantizeBest_eq_candidate fsys f
  change (quantizeBest fsys f).period = pwmPeriod _ _ _ (quantizeBest fsys f).df
  rw [best]
  rfl

/-- The first candidate is that of search variable 127, whose `DIV_FRAC` is 15 (R163). -/
theorem quantize_error_le_first :
    |f - (quantize fsys f).achievedFrequency| ≤
      |f - pwmFrequency fsys (quantize fsys f).top (quantize fsys f).pc (quantize fsys f).divInt
        15| := by
  obtain ⟨-, -, -, noWorse, -⟩ :=
    search_cases (coarse fsys f) (Config.iterMax - 1) 1 0 Config.sMax none
  rw [← quantizeBest_err]
  exact noWorse.trans_eq (candidate_err (coarse fsys f) 127)

/-- Before the iteration cap only the tolerance ends the search (R165). -/
theorem quantize_error_of_early (early : (quantize fsys f).iterationsUsed < 20) :
    |f - (quantize fsys f).achievedFrequency| ≤ 1 / 10 := by
  obtain ⟨-, -, -, -, -, tolerated⟩ :=
    search_cases (coarse fsys f) (Config.iterMax - 1) 1 0 Config.sMax none
  rw [← quantizeBest_err]
  exact tolerated early

end

/-! ## The three points of the convergence property (R171) -/

/-- The trace of V72: the eighth iteration is within the tolerance. -/
theorem quantize_1000 :
    quantize 125000000 1000 =
      { periodWanted := 125000, achievedPeriod := 125002, top := 62500, pc := true, divInt := 1
        divFrac := 0, iterationsUsed := 8, achievedFrequency := 62500000 / 62501 } := by
  decide +kernel

/-- The trace of V73: every candidate is below the target, so the search narrows to `DIV_FRAC` 0 and
stays there up to the iteration cap. -/
theorem quantize_5_6 :
    quantize 125000000 (11744051 / 2097152) =
      { periodWanted := 262144000000000 / 11744051, achievedPeriod := 33423360, top := 65535
        pc := true, divInt := 255, divFrac := 0, iterationsUsed := 20
        achievedFrequency := 390625 / 104448 } := by
  decide +kernel

/-- The trace of V74: the target is not above the threshold of phase-correct mode, which doubles the
period wanted. -/
theorem quantize_62_5e6 :
    quantize 125000000 62500000 =
      { periodWanted := 2, achievedPeriod := 4, top := 1, pc := true, divInt := 1, divFrac := 0
        iterationsUsed := 20, achievedFrequency := 31250000 } := by
  decide +kernel

/-! ## The obligations -/

/-- Settles O31: the search returns one of its candidates, no worse than its first. -/
theorem quantizerResultInRange : Obligations.QuantizerResultInRange := by
  unfold Obligations.QuantizerResultInRange
  rintro fsys f q - rfl
  obtain ⟨top, ⟨one_le_divInt, -⟩, divFrac, frequency⟩ := quantize_registers fsys f
  obtain ⟨first, last⟩ := quantize_iterationsUsed fsys f
  have divInt : (quantize fsys f).divInt = 1 ∨ (quantize fsys f).divInt = 255 := by
    rw [quantize_divInt]
    exact (ite_eq_or_eq _ _ _).symm
  have period := quantize_achievedPeriod fsys f
  refine ⟨Nat.le_of_lt_succ top, divInt, divFrac, first, last, period, ?_, ?_,
    quantize_error_le_first fsys f⟩
  · rw [period]
    exact one_le_pwmPeriod _ one_le_divInt
  · rw [frequency, period, pwmFrequency]

/-- Settles O32: the search goes on until the tolerance or the iteration cap is reached. -/
theorem earlyStopIsWithinTolerance : Obligations.EarlyStopIsWithinTolerance := by
  unfold Obligations.EarlyStopIsWithinTolerance
  exact quantize_error_of_early

/-- Settles O34: half of the wanted period is below 1, from 0 to below 65536, or from 65536 on, and
the clamp acts accordingly. -/
theorem topIsHalfThePeriodWanted : Obligations.TopIsHalfThePeriodWanted := by
  unfold Obligations.TopIsHalfThePeriodWanted
  intro fsys f pos
  have clamped := quantize_top fsys f
  refine ⟨quantize_periodWanted fsys f, fun below => ?_, fun inside => ?_, fun above => ?_⟩
  · have half : ⌊(fsys : Rat) / f / 2⌋ < 1 := Int.floor_lt.2 (by push_cast; linarith)
    omega
  · have nonneg : 0 ≤ ⌊(fsys : Rat) / f / 2⌋ := Int.floor_nonneg.2 (by positivity)
    have half : ⌊(fsys : Rat) / f / 2⌋ < 65536 := Int.floor_lt.2 (by push_cast; linarith)
    omega
  · have half : 65536 ≤ ⌊(fsys : Rat) / f / 2⌋ := Int.le_floor.2 (by push_cast; linarith)
    omega

/-- Settles O33: the coarse settings compare the target with the two thresholds. -/
theorem coarseThresholdsAreStrict : Obligations.CoarseThresholdsAreStrict := by
  unfold Obligations.CoarseThresholdsAreStrict
  intro fsys f
  refine ⟨quantize_divInt fsys f, ?_⟩
  rw [quantize_pc]
  by_cases above : 62500000 < f <;> simp [above]

/-- Settles O35: each of the three runs returns the record of its trace. -/
theorem convergencePoints : Obligations.ConvergencePoints := by
  unfold Obligations.ConvergencePoints
  rintro _ _ _ rfl rfl rfl
  rw [quantize_1000, quantize_5_6, quantize_62_5e6]
  have pattern : f32Value 0x40B33333 = .fin (11744051 / 2097152) := by decide +kernel
  have near : (1000 : Rat) - 62500000 / 62501 ≤ 1 / 10 := by norm_num
  exact ⟨pattern, rfl, rfl, near, rfl, rfl, rfl, rfl⟩

end Sys2Proof
end

section
/-! Failures of a step (60_exceptions.md R173, R176): none is fatal, and a completed frame that does not
parse is reported and answered. -/

namespace Sys2Proof.Machine

theorem loopStep_next (s : State) : ∃ t, loopStep s = .next t := by
  rcases loopStep_cases s with ⟨-, -, hs⟩ | ⟨_, _, -, -, hs⟩ | ⟨_, _, -, -, hs⟩ |
    ⟨_, _, _, -, -, -, hs⟩ | ⟨_, _, _, -, -, hs⟩ <;> exact ⟨_, hs⟩

/-- Settles O49: a round of the control loop and a reset each lead to a next state. -/
theorem noFailureIsFatal : Obligations.NoFailureIsFatal := by
  unfold Obligations.NoFailureIsFatal
  intro s
  cases hr : s.resetReq with
  | none =>
    obtain ⟨t, looped⟩ := loopStep_next s
    exact ⟨t, (step_of_noReset s hr).trans looped⟩
  | atOnce => exact ⟨_, step_atOnce s hr⟩
  | beforeSend =>
    obtain ⟨t, looped⟩ := loopStep_next s
    exact ⟨_, step_beforeSend s t hr looped⟩

theorem handleFrame_of_frameErr {raw : Bytes} {s : State} {e : FrameErr}
    (h : Frame.fromBytes (knownOpcode s.cfg) raw = .error e) :
    handleFrame raw s = .next (s.fail (.frame e)) := by
  simp only [handleFrame, h]

/-- A frame that does not parse: its report, then the response of R174 rows 3 to 5. -/
theorem State.fail_frame {s : State} (legal : reasonsLegal s.cfg.reason = true) (e : FrameErr) :
    s.fail (.frame e) =
      (s.emitDiag (.frameError e)).answered ((Failure.frame e).response s.cfg.reason) :=
  s.fail_eq (.frame e) legal

/-- Settles O44: the step that completes the frame takes the failure, which is answered by its kind. -/
theorem frameErrorsAreAnswered : Obligations.FrameErrorsAreAnswered := by
  unfold Obligations.FrameErrorsAreAnswered
  intro s n d e noReset pending legal fed unparsed
  have handled := handleFrame_of_frameErr (s := s.setDec d) unparsed
  rw [State.fail_frame (s := s.setDec d) legal] at handled
  rw [step_of_frameComplete noReset pending fed handled]
  congr 2
  cases e <;>
    simp [State.decReset, State.setDec, State.answered, State.emitDiag, State.emit, Dec.empty,
      Failure.response]

end Sys2Proof.Machine
end

section
/-! What the block never puts out (60_exceptions.md R183, R186, R189): the wire message of ErrBusy, a call
of an interface that is not installed, `enable`, `disable`. -/

namespace Sys2Proof

theorem wire_injective : Function.Injective wire := by
  intro raw raw' same
  have fed := decFeed_wire (Nat.le_max_left raw.length raw'.length)
  rw [same, decFeed_wire (Nat.le_max_right raw.length raw'.length)] at fed
  exact (congrArg (fun r : FeedResult × Dec => r.2.acc) fed).symm

theorem Frame.opcode_of_wire {f g : Frame} (same : wire f.toBytes = wire g.toBytes) :
    f.opcode = g.opcode := by
  rw [← f.u16At_toBytes, wire_injective same, g.u16At_toBytes]

theorem Op.code_injective : Function.Injective Op.code := by
  intro o o' same
  have row := Op.ofCode_code o
  rw [same, Op.ofCode_code] at row
  exact (Option.some.inj row).symm

end Sys2Proof

namespace Sys2Proof.Machine

/-! ## Permitted outputs -/

/-- A call that a build of interface `i` may make (R189). -/
def PermittedCall (i : Itf) (c : PortCall) : Prop :=
  callItf c = i ∧ (∀ channel, c ≠ .enable channel) ∧ ∀ channel, c ≠ .disable channel

/-- An event that a build with configuration registers `c` may put out; that ErrBusy is not sent rests on
the command tables being legal. -/
def OutEvent.Permitted (c : Cfg) : OutEvent → Prop
  | .tx m => cfgLegal c.toCfgParams = true → m ≠ wire (encode .errBusy)
  | .port call => PermittedCall c.itf call.1
  | .diag _ => True

theorem mem_filterMap_message? {es : List OutEvent} {m : Bytes}
    (h : m ∈ es.filterMap OutEvent.message?) : .tx m ∈ es := by
  obtain ⟨e, he, isMessage⟩ := List.mem_filterMap.1 h
  cases e with
  | tx => exact Option.some.inj isMessage ▸ he
  | port | diag => cases isMessage

theorem mem_filterMap_call? {es : List OutEvent} {call : PortCall × PortAnswer}
    (h : call ∈ es.filterMap OutEvent.call?) : .port call ∈ es := by
  obtain ⟨e, he, isCall⟩ := List.mem_filterMap.1 h
  cases e with
  | port => exact Option.some.inj isCall ▸ he
  | tx | diag => cases isCall

/-- Between `s` and `t` only permitted events were put out, and the configuration registers stayed. -/
def State.OnlyPermitted (s t : State) : Prop :=
  t.cfg = s.cfg ∧ ∃ es, t.out = s.out ++ es ∧ ∀ e ∈ es, e.Permitted s.cfg

theorem State.OnlyPermitted.of_same {s t : State} (cfg : t.cfg = s.cfg) (out : t.out = s.out) :
    s.OnlyPermitted t := ⟨cfg, [], by simp [out], by simp⟩

theorem State.OnlyPermitted.of_event {s t : State} {e : OutEvent} (cfg : t.cfg = s.cfg)
    (out : t.out = s.out ++ [e]) (permitted : e.Permitted s.cfg) : s.OnlyPermitted t :=
  ⟨cfg, [e], out, by simpa using permitted⟩

theorem State.OnlyPermitted.trans {s t u : State} (first : s.OnlyPermitted t)
    (second : t.OnlyPermitted u) : s.OnlyPermitted u := by
  obtain ⟨cfg, es, out, permitted⟩ := first
  obtain ⟨cfg', es', out', permitted'⟩ := second
  rw [cfg] at cfg' permitted'
  exact ⟨cfg', es ++ es', by rw [out', out, List.append_assoc],
    List.forall_mem_append.2 ⟨permitted, permitted'⟩⟩

section
variable {s : State}

theorem State.onlyPermitted_emitDiag (e : DiagEvent) : s.OnlyPermitted (s.emitDiag e) :=
  .of_event rfl rfl trivial

theorem State.onlyPermitted_afterPort {c : PortCall} (permitted : PermittedCall s.cfg.itf c) :
    s.OnlyPermitted (s.afterPort c) := .of_event rfl rfl permitted

theorem sentEvent_permitted {c : Cfg} {f : Frame}
    (notBusy : cfgLegal c.toCfgParams = true → f.opcode ≠ Op.errBusy.code) :
    (sentEvent f.toBytes).Permitted c := by
  obtain sent | ⟨k, dropped⟩ := sentEvent_cases f.toBytes
  · rw [sent]
    exact fun legal same => notBusy legal (Frame.opcode_of_wire (g := Instr.errBusy.toFrame) same)
  · rw [dropped]
    trivial

theorem State.onlyPermitted_sendFrame {f : Frame}
    (notBusy : cfgLegal s.cfg.toCfgParams = true → f.opcode ≠ Op.errBusy.code) :
    s.OnlyPermitted (s.sendFrame f) := by
  rw [State.sendFrame_eq]
  exact .of_event rfl rfl (sentEvent_permitted notBusy)

theorem State.onlyPermitted_send {m : Instr} (notBusy : m.op ≠ .errBusy) :
    s.OnlyPermitted (s.send m) :=
  State.onlyPermitted_sendFrame fun _ => Op.code_injective.ne notBusy

/-- No failure is answered with ErrBusy (R174, R183). -/
theorem Failure.response_op_ne_errBusy (e : Failure) (r : Reasons) :
    (e.response r).op ≠ .errBusy := by
  rcases e with ⟨_ | _ | _⟩ | _ | _ | _ | _ | _ | _ <;> nofun

theorem State.onlyPermitted_fail (e : Failure) : s.OnlyPermitted (s.fail e) := by
  have reported : s.OnlyPermitted (s.emit (e.events.map .diag)) := by
    refine ⟨rfl, _, rfl, fun event he => ?_⟩
    obtain ⟨_, -, rfl⟩ := List.mem_map.1 he
    trivial
  exact reported.trans (State.onlyPermitted_send (e.response_op_ne_errBusy _))

/-! ## Messages of the opcode table -/

theorem State.onlyPermitted_portAll {cs : List PortCall}
    (permitted : ∀ c ∈ cs, PermittedCall s.cfg.itf c) : s.OnlyPermitted (s.portAll cs).2 := by
  obtain ⟨k, log, -, calls, after, -⟩ := s.portAll_cases cs
  rw [after]
  refine ⟨rfl, log.map .port, rfl, fun e he => ?_⟩
  obtain ⟨call, made, rfl⟩ := List.mem_map.1 he
  have taken : call.1 ∈ cs.take k := calls ▸ List.mem_map_of_mem made
  exact permitted call.1 (List.mem_of_mem_take taken)

theorem State.onlyPermitted_whenInstalled {i : Itf} {g : State → State}
    (served : s.cfg.itf = i → s.OnlyPermitted (g s)) : s.OnlyPermitted (s.whenInstalled i g) := by
  by_cases installed : s.cfg.itf = i
  · rw [s.whenInstalled_installed i g installed]
    exact served installed
  · rw [s.whenInstalled_other i g installed]
    exact State.onlyPermitted_fail _

theorem State.onlyPermitted_callAndReply {i : Itf} {c : PortCall} {reply : PortVal → Instr}
    (permitted : PermittedCall i c) (notBusy : ∀ v, (reply v).op ≠ .errBusy) :
    s.OnlyPermitted (s.whenInstalled i (State.callAndReply c reply)) := by
  refine State.onlyPermitted_whenInstalled fun installed => ?_
  subst installed
  have called := State.onlyPermitted_afterPort permitted
  unfold State.callAndReply
  cases s.portAnswer c with
  | err => exact called.trans (State.onlyPermitted_fail _)
  | ok v => exact called.trans (State.onlyPermitted_send (notBusy v))

theorem State.onlyPermitted_setFrequency (installed : s.cfg.itf = .pwm) (channel : Byte)
    (value : F32) : s.OnlyPermitted (s.setFrequency channel value) := by
  unfold State.setFrequency
  split
  next => exact State.onlyPermitted_fail _
  next f _ =>
    have reported := s.onlyPermitted_emitDiag (quantizerReport (quantize s.cfg.fsys f))
    have committed := reported.trans <|
      State.onlyPermitted_portAll (cs := commitCalls channel (quantize s.cfg.fsys f))
        (by simp [commitCalls, PermittedCall, callItf, installed])
    dsimp only
    split
    next s' ran =>
      rw [ran] at committed
      exact committed.trans (State.onlyPermitted_fail _)
    next s' ran =>
      rw [ran] at committed
      exact committed.trans (State.onlyPermitted_send nofun)

theorem State.onlyPermitted_getFrequency (installed : s.cfg.itf = .pwm) (channel : Byte) :
    s.OnlyPermitted (s.getFrequency channel) := by
  have read := State.onlyPermitted_portAll (s := s) (cs := readCalls channel)
    (by simp [readCalls, PermittedCall, callItf, installed])
  unfold State.getFrequency
  split
  next s' ran =>
    rw [ran] at read
    split
    next => exact read.trans (State.onlyPermitted_fail _)
    next => exact read.trans (State.onlyPermitted_send nofun)
  next s' _ ran =>
    rw [ran] at read
    exact read.trans (State.onlyPermitted_fail _)

end

theorem exec_onlyPermitted {i : Instr} {s t : State} (h : exec i s = .next t) :
    s.OnlyPermitted t := by
  cases i with
  | ping | itfType | version | idGet =>
    obtain rfl := Host.Outcome.next.inj h
    exact State.onlyPermitted_send nofun
  | gpioDirSet | gpioDirGet | gpioWrite | gpioRead | pwmSetDutyCycle | pwmGetDutyCycle =>
    obtain rfl := Host.Outcome.next.inj h
    exact State.onlyPermitted_callAndReply ⟨rfl, nofun, nofun⟩ nofun
  | pwmSetFrequency channel value =>
    obtain rfl := Host.Outcome.next.inj h
    exact State.onlyPermitted_whenInstalled fun installed =>
      State.onlyPermitted_setFrequency installed channel value
  | pwmGetFrequency channel =>
    obtain rfl := Host.Outcome.next.inj h
    exact State.onlyPermitted_whenInstalled fun installed =>
      State.onlyPermitted_getFrequency installed channel
  | _ =>
    obtain rfl := Host.Outcome.next.inj h
    exact State.onlyPermitted_fail .notARequest

/-! ## Requests of the command tables -/

/-- ErrBusy is a status code, and no response of a legal command table is one (R60, R61). -/
theorem opcode_ne_errBusy_of_mem_responses {c : Cfg} {i : Itf} {r : ResponseEntry}
    (legal : cfgLegal c.toCfgParams = true) (hr : r ∈ (cmdTable c i).responses) :
    r.opcode ≠ Op.errBusy.code := by
  intro same
  have busy : category c Op.errBusy.code = some .statusGeneric := rfl
  rw [← same, category_of_response legal hr] at busy
  cases busy

theorem Reply.opcode_ne_errBusy {c : Cfg} {i : Itf} {p : Reply} (reasons : Reasons) (env : List Val)
    (legal : cfgLegal c.toCfgParams = true) (hp : replyLegal (cmdTable c i) p = true) :
    (p.frame reasons env).opcode ≠ Op.errBusy.code := by
  cases p with
  | good | errGeneric | errInvalidArgs => simp [Reply.frame, Instr.toFrame, Instr.op, Op.code]
  | value opcode fields =>
    simp only [replyLegal, Bool.and_eq_true, List.any_eq_true, beq_iff_eq] at hp
    obtain ⟨⟨r, hr, rfl, -⟩, -⟩ := hp
    exact opcode_ne_errBusy_of_mem_responses legal hr

theorem State.onlyPermitted_runHandler {c : Cfg} {h : Handler}
    (legal : cfgLegal c.toCfgParams = true → handlerLegal (cmdTable c c.itf) h = true)
    (env : List Val) {s : State} (hc : s.cfg = c) :
    s.OnlyPermitted (s.runHandler c.itf h env) := by
  induction h generalizing env s with
  | reply r =>
    subst hc
    exact State.onlyPermitted_sendFrame fun l => Reply.opcode_ne_errBusy _ env l (legal l)
  | bind t rest ih => exact ih legal _ hc
  | call op args res rest ih =>
    have called : s.OnlyPermitted (s.afterPort (.table c.itf op (fieldsOf env args) res)) :=
      State.onlyPermitted_afterPort ⟨by rw [hc]; rfl, nofun, nofun⟩
    simp only [State.runHandler]
    cases s.portAnswer (.table c.itf op (fieldsOf env args) res) with
    | err => exact called.trans (State.onlyPermitted_fail _)
    | ok v => exact called.trans (ih legal _ hc)
  | branch cond yes no ihy ihn =>
    simp only [handlerLegal, Bool.and_eq_true] at legal
    simp only [State.runHandler]
    split
    next => exact ihy (fun l => (legal l).1) env hc
    next => exact ihn (fun l => (legal l).2) env hc
  | quantize target rest ih =>
    simp only [State.runHandler]
    split
    next => exact State.onlyPermitted_fail _
    next => exact (State.onlyPermitted_emitDiag _).trans (ih legal _ hc)

section
variable {s : State}

theorem State.onlyPermitted_runTable (f : Frame) : s.OnlyPermitted (s.runTable f) := by
  unfold State.runTable
  split
  case h_1 i _ =>
    split
    case isTrue => exact State.onlyPermitted_fail _
    case isFalse installed =>
      obtain rfl := not_not.1 installed
      split
      case h_3 e fields request =>
        exact State.onlyPermitted_runHandler
          (fun legal => cfgLegal_handler legal (mem_requests_of_tableRequest request)) _ rfl
      all_goals exact State.onlyPermitted_fail _
  all_goals exact State.onlyPermitted_fail _

theorem State.onlyPermitted_refuseArguments (op : U16) : s.OnlyPermitted (s.refuseArguments op) := by
  unfold State.refuseArguments
  split
  case h_2 => split <;> exact State.onlyPermitted_fail _
  all_goals exact State.onlyPermitted_fail _

/-! ## Steps -/

theorem processFrame_onlyPermitted {f : Frame} {t : State} (h : processFrame f s = .next t) :
    s.OnlyPermitted t := by
  unfold processFrame at h
  split at h
  next => exact exec_onlyPermitted h
  next => exact Host.Outcome.next.inj h ▸ State.onlyPermitted_refuseArguments f.opcode
  next => exact Host.Outcome.next.inj h ▸ State.onlyPermitted_runTable f

theorem handleFrame_onlyPermitted {raw : Bytes} {t : State} (h : handleFrame raw s = .next t) :
    s.OnlyPermitted t := by
  unfold handleFrame at h
  split at h
  next => exact Host.Outcome.next.inj h ▸ State.onlyPermitted_fail _
  next => exact processFrame_onlyPermitted h

theorem State.onlyPermitted_advance (n : Nat) : s.OnlyPermitted (s.advance n) :=
  .of_same (s.advance_cfg n) (s.advance_out n)

theorem loopStep_onlyPermitted {t : State} (h : loopStep s = .next t) : s.OnlyPermitted t := by
  rcases loopStep_cases s with ⟨-, -, hs⟩ | ⟨c, rest, -, -, hs⟩ | ⟨n, d, -, -, hs⟩ |
    ⟨n, d, u, -, -, handled, hs⟩ | ⟨e, k, d, -, -, hs⟩ <;>
    obtain rfl := Host.Outcome.next.inj (hs.symm.trans h)
  case inl => exact .of_same rfl rfl
  case inr.inl => exact .of_same rfl rfl
  case inr.inr.inl =>
    have decoded : s.OnlyPermitted (s.setDec d) := .of_same rfl rfl
    exact decoded.trans (State.onlyPermitted_advance n)
  case inr.inr.inr.inl =>
    have decoded : s.OnlyPermitted (s.setDec d) := .of_same rfl rfl
    have decoderReset : u.OnlyPermitted u.decReset := .of_same rfl rfl
    exact ((decoded.trans (handleFrame_onlyPermitted handled)).trans decoderReset).trans
      (State.onlyPermitted_advance n)
  case inr.inr.inr.inr =>
    have reported : s.OnlyPermitted ((s.setDec d).transportFail e k) := .of_event rfl rfl trivial
    exact reported.trans (State.onlyPermitted_advance (k + 1))

/-- Every step puts out permitted events only, also one whose response a reset takes back (R191). -/
theorem step_permitted {t : State} (h : step s = .next t) :
    ∃ es, t.out = s.out ++ es ∧ ∀ e ∈ es, e.Permitted s.cfg := by
  obtain ⟨-, looped⟩ | ⟨-, rfl⟩ | ⟨-, u, looped, rfl⟩ := step_next_cases h
  · exact (loopStep_onlyPermitted looped).2
  · exact ⟨[], by simp, by simp⟩
  · obtain ⟨-, es, out, permitted⟩ := loopStep_onlyPermitted looped
    exact ⟨_, State.loseResponse_out out, fun e kept => permitted e (List.mem_of_mem_filter kept)⟩

/-- A step that completes no frame calls no port operation (R186). -/
theorem step_portLog_of_no_frame {t : State}
    (noFrame : ∀ n d, decFeed Config.decCap s.dec s.pending ≠ (.ok n true, d))
    (h : step s = .next t) : t.portLog = s.portLog := by
  have loopCallsNothing : ∀ u, loopStep s = .next u → u.portLog = s.portLog := by
    intro u looped
    obtain ⟨reports, out⟩ := loopStep_out_of_no_frame noFrame looped
    simp [State.portLog_of_out out]
  obtain ⟨-, looped⟩ | ⟨-, rfl⟩ | ⟨-, u, looped, rfl⟩ := step_next_cases h
  · exact loopCallsNothing t looped
  · rfl
  · obtain ⟨-, es, out, -⟩ := loopStep_onlyPermitted looped
    exact (State.loseResponse_portLog out).trans (loopCallsNothing u looped)

end

/-- Settles O52: of the permitted outputs none is ErrBusy under a legal configuration; received, it is no
request. -/
theorem errBusyIsNeverSent : Obligations.ErrBusyIsNeverSent := by
  unfold Obligations.ErrBusyIsNeverSent
  refine ⟨fun s t inv h m hm => ?_, fun s => exec_of_not_request s rfl⟩
  obtain ⟨es, out, permitted⟩ := step_permitted h
  rw [State.tx_of_out out] at hm
  obtain earlier | new := List.mem_append.1 hm
  · exact .inl earlier
  · exact .inr (permitted _ (mem_filterMap_message? new) inv.cfg)

/-- Settles O53: the calls of a step are those among its permitted outputs. -/
theorem onlyInstalledPortOperations : Obligations.OnlyInstalledPortOperations := by
  unfold Obligations.OnlyInstalledPortOperations
  intro s t h
  obtain ⟨es, out, permitted⟩ := step_permitted h
  have grown := State.portLog_of_out out
  refine ⟨_, grown, fun call made => permitted _ (mem_filterMap_call? made), fun noFrame => ?_⟩
  have same := step_portLog_of_no_frame noFrame h
  rw [grown] at same
  exact List.append_right_eq_self.1 same

end Sys2Proof.Machine
end

section
/-! A step with nothing to do, and a step whose response a reset takes back (70_reset_and_hazards.md R191,
R192, R194). -/

namespace Sys2Proof.Machine

/-- Settles O50: nothing is left to feed and no chunk to take, so the round ends where it began. -/
theorem partialFrameWaits : Obligations.PartialFrameWaits := by
  unfold Obligations.PartialFrameWaits
  rintro s ⟨chunk, -, rx, noReset⟩
  have pending : s.pending = [] := by rw [State.pending, chunk, List.drop_nil]
  rw [step_of_noReset s noReset]
  simp only [loopStep, pending, rx]

/-! ## The round without its reset -/

theorem State.advance_requestReset (r : ResetReq) (n : Nat) (s : State) :
    (s.requestReset r).advance n = (s.advance n).requestReset r := by
  unfold State.advance
  rw [apply_ite (State.requestReset r)]
  rfl

theorem State.afterFeed_requestReset (r : ResetReq) (fed : FeedResult × Dec) (s : State) :
    (s.requestReset r).afterFeed fed = (s.afterFeed fed).requestReset r := by
  obtain ⟨es, d, enc, answers⟩ := s.afterFeed_answers fed
  rw [answers s (.refl s), answers (s.requestReset r) ⟨rfl, rfl, rfl⟩]
  rfl

theorem feedRound_requestReset (r : ResetReq) (s : State) :
    feedRound (s.requestReset r) = mapNext (State.requestReset r) (feedRound s) := by
  rw [feedRound_eq, feedRound_eq, State.afterRound, State.afterFeed_requestReset,
    State.advance_requestReset]
  rfl

/-- The control loop does not see the reset that waits: it is taken around a round, not by it (R191). -/
theorem loopStep_requestReset (r : ResetReq) (s : State) :
    loopStep (s.requestReset r) = mapNext (State.requestReset r) (loopStep s) := by
  have samePending : (s.requestReset r).pending = s.pending := rfl
  by_cases nothing : s.pending = []
  · simp only [loopStep, samePending, nothing, State.requestReset_rx]
    cases s.rx <;> rfl
  · rw [loopStep_of_pending nothing, loopStep_of_pending (s := s.requestReset r) nothing,
      feedRound_requestReset]

/-- Settles O58: the round is the one without the reset, whose new events the reset keeps but for the
messages, and the reset itself puts out nothing. -/
theorem lateResetLosesTheResponse : Obligations.LateResetLosesTheResponse := by
  unfold Obligations.LateResetLosesTheResponse
  intro s t u hr stepped stepped'
  obtain ⟨v, looped⟩ := loopStep_next s
  obtain rfl := Host.Outcome.next.inj ((step_beforeSend s v hr looped).symm.trans stepped)
  have withoutReset : step (s.requestReset .none) = .next (v.requestReset .none) := by
    rw [step_of_noReset _ rfl, loopStep_requestReset, looped, mapNext]
  obtain rfl := Host.Outcome.next.inj (withoutReset.symm.trans stepped')
  obtain ⟨-, sameInputs, es, out, -⟩ := loopStep_keeps looped
  exact ⟨⟨es, out, State.loseResponse_out out⟩, State.loseResponse_tx out,
    State.loseResponse_portLog out, State.loseResponse_diag out, rfl, rfl, rfl, rfl, rfl, rfl,
    sameInputs⟩

end Sys2Proof.Machine
end

section
/-! The raw frames written out in 95_test_vectors.md: each is opcode, payload and checksum of the message it
stands for (41_frame_protocol.md R92, R96). -/

namespace Sys2Proof

/-- Opcode, payload and the checksum of both are the raw frame of a message, which is read back. -/
theorem decode_of_checksum {i : Instr} {sum : U16} {raw : Bytes} (wellFormed : i.wellFormed = true)
    (checksum : i.toFrame.checksum = sum)
    (written : be16 i.op.code ++ i.payload ++ be16 sum = raw) : decode raw = .ok i := by
  subst checksum written
  exact decode_encode wellFormed

/-- Settles O2: only the five checksums are computed, bit by bit; opcode and payload stand in the frames as
their messages encode them. -/
theorem writtenFramesDecode : Obligations.WrittenFramesDecode := by
  unfold Obligations.WrittenFramesDecode
  have ping : Instr.ping.toFrame.checksum = 0x1D0F := by decide +kernel
  have gpioDirSet : (Instr.gpioDirSet 2 2).toFrame.checksum = 0xB454 := by decide +kernel
  have pwmSetFrequency : (Instr.pwmSetFrequency 0 0x447A0000).toFrame.checksum = 0xA1C9 := by
    decide +kernel
  have errGeneric :
      (Instr.errGeneric Config.defaultReasons.hwFailure).toFrame.checksum = 0x8AD3 := by
    decide +kernel
  have respGpioValue : (Instr.respGpioValue 2 1).toFrame.checksum = 0xAC1B := by decide +kernel
  exact ⟨decode_of_checksum rfl ping rfl, decode_of_checksum rfl gpioDirSet rfl,
    decode_of_checksum rfl pwmSetFrequency rfl, decode_of_checksum rfl errGeneric rfl,
    decode_of_checksum rfl respGpioValue rfl⟩

end Sys2Proof
end
